-- ==== Sys2Proof/Word.lean ====
section
/-! DEFINITION. The word types of the engine's port (spec/20_memory.md R50, R53): every access is one 32-bit word;
a cell of the byte buffer is 8 bits (spec/10_state.md R32). -/

namespace Sys2Proof

/-- A byte: the cells of `BB`, and the unit in which the model keeps memory. -/
abbrev Byte := BitVec 8

/-- A 32-bit word of the host port. -/
abbrev Word := BitVec 32

end Sys2Proof
end

