-- ==== Sys2Proof/Syntax.lean ====
section
/-! DEFINITION. The command set (spec/30_encoding.md R70 to R72): one constructor per row of spec/opcode_table.json. -/

namespace Sys2Proof

/-- The ten commands of spec/30_encoding.md R71. A command has no operand but the flag `R` of FFT (R70, R72). -/
inductive Instr where
  /-- NOP (spec/40_control.md R88). -/
  | nop
  /-- PACK (spec/41_pack.md R91). -/
  | pack
  /-- SYM (spec/42_symmetry.md R95). -/
  | sym
  /-- IFFT (spec/43_transform.md R101). -/
  | ifft
  /-- FFT (spec/43_transform.md R102); `r` is the real-input flag of R72. -/
  | fft (r : Bool)
  /-- UNPACK (spec/44_unpack.md R112). -/
  | unpack
  /-- ENCODE (spec/45_composite.md R120). -/
  | encode
  /-- DECODE (spec/45_composite.md R122). -/
  | decode
  /-- VERIFY (spec/45_composite.md R121). -/
  | verify
  /-- CLRERR (spec/40_control.md R89). -/
  | clrerr
deriving DecidableEq, Repr

end Sys2Proof
end

