-- ==== Sys2Proof/WellFormed.lean ====
section
/-! DEFINITION. When the fields of a command word are legal (spec/30_encoding.md R70 to R73). An `Instr` cannot be
ill formed (its one operand is a flag of one bit); what can be ill formed is a command word's fields. -/

namespace Sys2Proof

/-- The fields of format C (spec/30_encoding.md R70). -/
structure CommandFields where
  /-- bits `[7:0]`, the opcode -/
  op : BitVec 8
  /-- bit `[8]`, the real-input flag -/
  r : Bool
  /-- bits `[31:9]`, reserved -/
  zero : BitVec 23
deriving DecidableEq, Repr

/-- R73: the opcodes `0x0A .. 0xFF` are unassigned. -/
def CommandFields.opAssigned (f : CommandFields) : Bool := decide (f.op.toNat ≤ 9)

/-- R72: the flag may be set in FFT (`0x04`) only. -/
def CommandFields.flagAllowed (f : CommandFields) : Bool := !f.r || f.op == 4#8

/-- R70: bits `[31:9]` must be 0. -/
def CommandFields.zeroClear (f : CommandFields) : Bool := f.zero == 0#23

/-- The fields are those of a legal command. -/
def CommandFields.wellFormed (f : CommandFields) : Bool :=
  f.opAssigned && f.flagAllowed && f.zeroClear

/-- The fields of a command (the table of R71). -/
def Instr.fields : Instr → CommandFields
  | .nop => ⟨0x00#8, false, 0#23⟩
  | .pack => ⟨0x01#8, false, 0#23⟩
  | .sym => ⟨0x02#8, false, 0#23⟩
  | .ifft => ⟨0x03#8, false, 0#23⟩
  | .fft r => ⟨0x04#8, r, 0#23⟩
  | .unpack => ⟨0x05#8, false, 0#23⟩
  | .encode => ⟨0x06#8, false, 0#23⟩
  | .decode => ⟨0x07#8, false, 0#23⟩
  | .verify => ⟨0x08#8, false, 0#23⟩
  | .clrerr => ⟨0x09#8, false, 0#23⟩

/-- A command is well formed when its fields are. Every `Instr` is. -/
def Instr.wellFormed (i : Instr) : Bool := i.fields.wellFormed

end Sys2Proof
end

