-- ==== Sys2Proof/Decode.lean ====
section
/-! DEFINITION. The decoder of command words, total on every 32-bit word (spec/30_encoding.md R71, R73), and the encoder.
A command is the value of one write to `CMD`, copied into `CUR`: there is no instruction fetch and no byte order of
instructions (spec/20_memory.md R62), so the decoder reads a word. -/

namespace Sys2Proof

/-- Why a word is no command (spec/30_encoding.md R73). -/
inductive DecodeError where
  /-- some bit of `[31:9]` is set -/
  | reservedBits
  /-- `op` is in `0x0A .. 0xFF` -/
  | opcode
  /-- bit 8 is set with `op` other than `0x04` -/
  | realFlag
deriving DecidableEq, Repr

/-- A row of the opcode map (R71): a word `w` is the row's command exactly when `w AND mask = pattern`. -/
structure OpRow where
  mask : Word
  pattern : Word
  /-- the row's command, given bit 8 of the word -/
  instr : Bool → Instr

/-- The opcode map of spec/30_encoding.md R71, row by row. -/
def opRows : List OpRow :=
  [ ⟨0xFFFFFFFF#32, 0x00000000#32, fun _ => .nop⟩,
    ⟨0xFFFFFFFF#32, 0x00000001#32, fun _ => .pack⟩,
    ⟨0xFFFFFFFF#32, 0x00000002#32, fun _ => .sym⟩,
    ⟨0xFFFFFFFF#32, 0x00000003#32, fun _ => .ifft⟩,
    ⟨0xFFFFFEFF#32, 0x00000004#32, fun r => .fft r⟩,
    ⟨0xFFFFFFFF#32, 0x00000005#32, fun _ => .unpack⟩,
    ⟨0xFFFFFFFF#32, 0x00000006#32, fun _ => .encode⟩,
    ⟨0xFFFFFFFF#32, 0x00000007#32, fun _ => .decode⟩,
    ⟨0xFFFFFFFF#32, 0x00000008#32, fun _ => .verify⟩,
    ⟨0xFFFFFFFF#32, 0x00000009#32, fun _ => .clrerr⟩ ]

/-- A word is the command of a row (R71). -/
def OpRow.holds (row : OpRow) (w : Word) : Bool := (w &&& row.mask) == row.pattern

/-- The fields of a word in format C (R70). -/
def commandFields (w : Word) : CommandFields :=
  ⟨w.extractLsb' 0 8, w.getLsbD 8, w.extractLsb' 9 23⟩

/-- The name of what makes a word illegal, tested from the most significant field down. -/
def illegalReason (f : CommandFields) : DecodeError :=
  if !f.zeroClear then .reservedBits else if !f.opAssigned then .opcode else .realFlag

/-- The command that a word is, or why it is none (R71, R73): every word is one of the ten commands or illegal. -/
def decode (w : Word) : Except DecodeError Instr :=
  match opRows.find? (fun row => row.holds w) with
  | some row => .ok (row.instr (w.getLsbD 8))
  | none => .error (illegalReason (commandFields w))

/-- The command word of a command (R71). -/
def encode : Instr → Word
  | .nop => 0x00000000#32
  | .pack => 0x00000001#32
  | .sym => 0x00000002#32
  | .ifft => 0x00000003#32
  | .fft false => 0x00000004#32
  | .fft true => 0x00000104#32
  | .unpack => 0x00000005#32
  | .encode => 0x00000006#32
  | .decode => 0x00000007#32
  | .verify => 0x00000008#32
  | .clrerr => 0x00000009#32

/-- The command read from a table word: the low `nbits` bits of `w`, every bit above them 0. -/
def decodeTableWord (nbits w : Nat) : Option Instr :=
  match decode (BitVec.ofNat 32 (w % 2 ^ nbits)) with
  | .ok i => some i
  | .error _ => none

end Sys2Proof
end

