-- ==== Sys2Proof/Config.lean ====
section
/-! DEFINITION. What is fixed for this hardware (spec/00_scope.md R5, spec/10_state.md R23, spec/20_memory.md R50) and the
free values: the values the spec leaves unspecified, as constants without a body. -/

namespace Sys2Proof.Config

/-- `LMAX` (spec/00_scope.md R5): the largest block length in bytes. -/
abbrev lmax : Nat := 1024

/-- `NMAX = LMAX + 2` (R5): the largest transform length and the depth of `TWR`, `TWI`, `SR`, `SI`, `AR`, `AI`. -/
abbrev nmax : Nat := 1026

/-- `TFRAC` (R5): the fraction bits of a twiddle component. -/
abbrev tfrac : Nat := 30

/-- The constant of the `ID` register (spec/10_state.md R23). -/
abbrev idWord : Word := 0x53434501#32

/-- The number of word offsets of the host port's window (spec/20_memory.md R50). -/
abbrev windowSize : Nat := 0x4000

/-- FREE VALUE (log entries 3, 5; spec/93_implementation_defined.md U1, U3, U10): the byte that the draw numbered by the
first argument gives at a byte address. It stands for what a cell holds that nothing has written since reset, and for
what the destination cells hold after `ERR_VOD`. -/
opaque freeByte : Nat → Nat → Byte

/-- FREE VALUE (log entry 6; spec/93_implementation_defined.md U2): the word that the draw of this number returns for a
host read of `MATCH` or of a data memory while the engine is busy. -/
opaque freeWord : Nat → Word

end Sys2Proof.Config
end

