-- ==== Sys2Proof/Machine/State.lean ====
section
/-! DEFINITION. The state of the engine (spec/10_state.md R20 to R39) as plain data, the events that act on it, the
reasons to stop, and the state right after reset. -/

namespace Sys2Proof.Machine

/-- The codes of `STATUS.ERR` (spec/60_exceptions.md R130): the values 5 to 15 never occur. -/
inductive ErrCode where
  /-- 0: no error -/
  | noError
  /-- 1, `ERR_CMD`: the accepted word is no command -/
  | cmd
  /-- 2, `ERR_LEN`: the command uses `LEN` and it is illegal -/
  | len
  /-- 3, `ERR_CFG`: `STEP = 0` or `QMODE = 3` in a command that uses it -/
  | cfg
  /-- 4, `ERR_VOD`: a result does not fit a 32-bit signed cell -/
  | vod
deriving DecidableEq, Repr

/-- What acts on the machine (spec/10_state.md R21, spec/70_reset_and_hazards.md R150; log entry 1). Offsets are word
offsets of the port's window. -/
inductive Event where
  /-- the host performs `HostRead(off)` (spec/20_memory.md R50) -/
  | read (off : Nat)
  /-- the host performs `HostWrite(off, v)` -/
  | write (off : Nat) (v : Word)
  /-- the engine's turn: its completion step takes place if one is enabled (spec/40_control.md R86) -/
  | engine
  /-- the external reset input (spec/70_reset_and_hazards.md R150) -/
  | reset
deriving DecidableEq, Repr

/-- Why the machine stops with a fault. -/
inductive Fault where
  /-- Raised by a host access at a word offset of `0x4000` or more: it is not part of the engine, and what the platform
  does with it is outside the spec (spec/20_memory.md R51, R64; spec/93_implementation_defined.md U9). Safe. -/
  | outsideWindow
deriving DecidableEq, Repr

/-- Why an instruction is refused. -/
inductive Refusal where
  /-- An arm of `exec` that has no meaning yet. No arm raises it: every command has its meaning. Safe. -/
  | notModelled (mnemonic : String)
deriving DecidableEq, Repr

/-- Memory: (byte address, byte) pairs, strictly rising in the address. Byte `b` of word offset `off` of the port's
window stands at `4 * off + b` (log entry 4). An address that is not listed holds a byte nothing has written since
reset (log entry 3). -/
abbrev Memory := List Host.Cell

/-- The state of the engine. `ID` is a constant and `CMD` stores nothing (spec/10_state.md R20, R23, R24). -/
structure State where
  /-- the seven data memories `BB`, `TWR`, `TWI`, `SR`, `SI`, `AR`, `AI` (R32 to R35) -/
  mem : Memory
  /-- `STATUS.BUSY` (R25) -/
  busy : Bool
  /-- `STATUS.DONE` (R25) -/
  done : Bool
  /-- `STATUS.REJ` (R25) -/
  rej : Bool
  /-- `STATUS.ERR` (R25) -/
  err : ErrCode
  /-- `CTRL.QMODE` (R26) -/
  qmode : BitVec 2
  /-- `LEN` (R27) -/
  len : BitVec 11
  /-- `STEP` (R28) -/
  stepSize : BitVec 16
  /-- `SENT` (R29) -/
  sent : Word
  /-- `MATCH` (R30) -/
  matchCount : BitVec 11
  /-- `CUR` (R36) -/
  cur : Word
  /-- MODEL: what the host, the reset input and the engine's turns will do, in order (log entry 1) -/
  events : List Event
  /-- MODEL: the words the port has returned to the host, the latest first (log entry 9) -/
  replies : List Word
  /-- MODEL: the number of the next free value (log entries 5, 6, 8) -/
  draws : Nat
  /-- MODEL: the number of the draw that stands for the unwritten memories (log entries 3, 8) -/
  epoch : Nat
deriving DecidableEq, Repr

/-- The machine right after reset (spec/10_state.md R39). The memories are unspecified: nothing is listed. `CUR` is
unspecified: 0 is the model's choice (log entry 7). -/
def State.reset : State where
  mem := []
  busy := false
  done := false
  rej := false
  err := .noError
  qmode := 0#2
  len := 0#11
  stepSize := 0#16
  sent := 0#32
  matchCount := 0#11
  cur := 0#32
  events := []
  replies := []
  draws := 1
  epoch := 0

end Sys2Proof.Machine
end

