-- ==== Sys2Proof/Machine/Flags.lean ====
section
/-! DEFINITION. The fields of `STATUS` (spec/10_state.md R25): how they stand in the register and how acceptance,
rejection and completion change them (spec/40_control.md R85, R86). -/

namespace Sys2Proof.Machine

/-- The 4-bit code of an error (spec/60_exceptions.md R130). -/
def ErrCode.code : ErrCode → BitVec 4
  | .noError => 0#4
  | .cmd => 1#4
  | .len => 2#4
  | .cfg => 3#4
  | .vod => 4#4

/-- The `STATUS` register: `ERR` in `[7:4]`, `REJ` in `[2]`, `DONE` in `[1]`, `BUSY` in `[0]`, every other bit 0 (R25). -/
def State.statusWord (s : State) : Word :=
  0#24 ++ s.err.code ++ 0#1 ++ BitVec.ofBool s.rej ++ BitVec.ofBool s.done ++ BitVec.ofBool s.busy

/-- The halted state: `STATUS.ERR != 0` (spec/60_exceptions.md R134). -/
def State.halted (s : State) : Bool := s.err != .noError

/-- Acceptance of a command word (spec/40_control.md R85). -/
def State.accept (s : State) (w : Word) : State :=
  { s with cur := w, busy := true, done := false }

/-- Rejection of a host write (spec/20_memory.md R58, spec/40_control.md R85). -/
def State.reject (s : State) : State := { s with rej := true }

/-- What every completion does to `STATUS` (spec/40_control.md R86). -/
def State.finish (s : State) : State := { s with busy := false, done := true }

end Sys2Proof.Machine
end

