-- ==== Sys2Proof/Machine/Ops.lean ====
section
/-! DEFINITION. The operations every meaning is made of: memory (spec/20_memory.md R52, R55), exact arithmetic
(spec/00_scope.md R6 to R10), taking an error (spec/60_exceptions.md R133) and returning from the halted state
(spec/40_control.md R89), and the free values an `ERR_VOD` leaves behind. -/

namespace Sys2Proof.Machine

/-! ## Memory -/

/-- What memory lists at a byte address; an unlisted address reads as `none`: nothing has written it since reset. -/
def Memory.lookup : Memory → Nat → Option Byte
  | [], _ => none
  | (b, v) :: m, a => if b = a then some v else Memory.lookup m a

/-- Memory with one byte written, addresses kept in rising order. -/
def Memory.insert : Memory → Nat → Byte → Memory
  | [], a, v => [(a, v)]
  | (b, w) :: m, a, v =>
    if a < b then (a, v) :: (b, w) :: m
    else if a = b then (a, v) :: m
    else (b, w) :: Memory.insert m a v

/-- Memory with consecutive bytes written from a byte address upwards. -/
def Memory.storeBytes : Memory → Nat → List Byte → Memory
  | m, _, [] => m
  | m, a, v :: vs => Memory.storeBytes (Memory.insert m a v) (a + 1) vs

/-- Every address of memory is above `a`, strictly rising. -/
def Memory.risesAbove : Nat → Memory → Bool
  | _, [] => true
  | a, (b, _) :: m => decide (a < b) && Memory.risesAbove b m

/-- The canonical form: addresses strictly rising. (An unlisted address reads as no byte, so no entry can equal it.) -/
def Memory.wf : Memory → Bool
  | [] => true
  | (a, _) :: m => Memory.risesAbove a m

/-- The bytes of a word, `w[8b+7 : 8b]` for `b = 0, 1, 2, 3` (spec/20_memory.md R52). For the words of the other
memories the order of the bytes inside the word is the model's own and cannot be observed (log entry 4). -/
def wordBytes (w : Word) : List Byte :=
  [w.extractLsb' 0 8, w.extractLsb' 8 8, w.extractLsb' 16 8, w.extractLsb' 24 8]

/-- The word of four bytes, `b0 + 2^8 * b1 + 2^16 * b2 + 2^24 * b3` (R52). -/
def bytesWord (b0 b1 b2 b3 : Byte) : Word := b3 ++ b2 ++ b1 ++ b0

/-- The byte at a byte address. One that nothing has written since reset is the free value of the current epoch: an
arbitrary pattern, fixed until written (spec/10_state.md R39, spec/93_implementation_defined.md U1). -/
def State.byteAt (s : State) (a : Nat) : Byte :=
  (s.mem.lookup a).getD (Config.freeByte s.epoch a)

/-- The word at a word offset. -/
def State.wordAt (s : State) (off : Nat) : Word :=
  bytesWord (s.byteAt (4 * off)) (s.byteAt (4 * off + 1)) (s.byteAt (4 * off + 2)) (s.byteAt (4 * off + 3))

/-- Consecutive bytes stored from a byte address upwards. -/
def State.storeBytes (s : State) (a : Nat) (vs : List Byte) : State :=
  { s with mem := s.mem.storeBytes a vs }

/-- Consecutive words stored from a word offset upwards. -/
def State.storeWords (s : State) (off : Nat) (ws : List Word) : State :=
  s.storeBytes (4 * off) (ws.flatMap wordBytes)

/-! ## Arithmetic -/

/-- `rdiv(a, d) = floor((2*a + d) / (2*d))`, for `d > 0` (spec/00_scope.md R8). Lean's `/` on `Int` is the floor for a
positive divisor. -/
def rdiv (a d : Int) : Int := (2 * a + d) / (2 * d)

/-- `in32(v)`: `-2^31 <= v <= 2^31 - 1` (R10). -/
def in32 (v : Int) : Bool := decide (-2 ^ 31 ≤ v) && decide (v ≤ 2 ^ 31 - 1)

/-- `enc_32(v)` (R6). Its inverse `sint_32` is `BitVec.toInt`. -/
def enc32 (v : Int) : Word := BitVec.ofInt 32 v

/-- A complex value: a pair of integers (R9). -/
structure Cpx where
  re : Int
  im : Int
deriving DecidableEq, Repr

/-- Componentwise sum (R9). -/
def Cpx.add (x y : Cpx) : Cpx := ⟨x.re + y.re, x.im + y.im⟩

/-- `cmul((a, b), (c, d)) = (a*c - b*d, a*d + b*c)` (R9). -/
def cmul (x y : Cpx) : Cpx := ⟨x.re * y.re - x.im * y.im, x.re * y.im + x.im * y.re⟩

/-- The exact sum of `f 0, …, f (n-1)` (R9). -/
def cpxSum : Nat → (Nat → Cpx) → Cpx
  | 0, _ => ⟨0, 0⟩
  | n + 1, f => (cpxSum n f).add (f n)

/-- Both components fit a 32-bit signed cell. -/
def Cpx.fits (x : Cpx) : Bool := in32 x.re && in32 x.im

/-! ## Errors -/

/-- TAKING AN ERROR (spec/60_exceptions.md R133): `ERR <- e`, `BUSY <- 0`, `DONE <- 1`. Nothing else is saved and control
goes nowhere: there is no handler, no vector and no mode change. -/
def State.raise (s : State) (e : ErrCode) : State := { s with err := e }.finish

/-- RETURNING from the halted state (spec/40_control.md R89, spec/60_exceptions.md R135): `ERR <- 0`, `REJ <- 0`; nothing
is restored, because nothing was saved. -/
def State.clearErrors (s : State) : State := { s with err := .noError, rej := false }

/-- The bytes that the draw `d` gives for `n` addresses from `a` upwards. -/
def drawnBytes (d a n : Nat) : List Byte := (List.range n).map fun i => Config.freeByte d (a + i)

/-- Memory in which each of the byte ranges (first address, length) holds what the draw `d` gives. -/
def Memory.unspecify (d : Nat) : Memory → List (Nat × Nat) → Memory
  | m, [] => m
  | m, (a, n) :: rs => Memory.unspecify d (m.storeBytes a (drawnBytes d a n)) rs

/-- The cells of the byte ranges become unspecified: a fresh draw for each byte (spec/60_exceptions.md R133,
spec/93_implementation_defined.md U3). Every other cell is unchanged. -/
def State.unspecify (s : State) (ranges : List (Nat × Nat)) : State :=
  { s with mem := s.mem.unspecify s.draws ranges, draws := s.draws + 1 }

end Sys2Proof.Machine
end

