-- ==== Sys2Proof/Machine/Operands.lean ====
section
/-! DEFINITION. What a command's operands are: the named cells (spec/10_state.md R32 to R35, spec/20_memory.md R51), the
quantities derived from `LEN` (R38), the dequantizer and the quantizer (spec/41_pack.md R90, spec/44_unpack.md R110, R111),
and the checks every command makes (spec/40_control.md R87). -/

namespace Sys2Proof.Machine

/-- The six memories of 32-bit signed cells. -/
inductive Region where
  | twr | twi | sr | si | ar | ai
deriving DecidableEq, Repr

/-- The word offset of a memory's entry 0 (spec/20_memory.md R51). -/
def Region.base : Region → Nat
  | .twr => 0x0800
  | .twi => 0x1000
  | .sr => 0x1800
  | .si => 0x2000
  | .ar => 0x2800
  | .ai => 0x3000

/-- The byte address of `BB[0]`: word offset `0x0400` (R51). -/
def bbAddr : Nat := 4 * 0x0400

/-- An entry of one of the six memories as a signed integer (R55). -/
def State.cell (s : State) (r : Region) (j : Nat) : Int := (s.wordAt (r.base + j)).toInt

/-- `BB[i]` (spec/10_state.md R32, spec/20_memory.md R52). -/
def State.bb (s : State) (i : Nat) : Byte := s.byteAt (bbAddr + i)

/-- The complex entries `0 .. n-1` of a pair of memories. -/
def State.complexCells (s : State) (re im : Region) (n : Nat) : List Cpx :=
  (List.range n).map fun j => ⟨s.cell re j, s.cell im j⟩

/-- The samples `0 .. n-1` read as real: `(AR[i], 0)`, `AI` not read (spec/30_encoding.md R72). -/
def State.realSamples (s : State) (n : Nat) : List Cpx :=
  (List.range n).map fun i => ⟨s.cell .ar i, 0⟩

/-- Entries from `lo` upwards of one of the six memories stored (R55). -/
def State.storeCells (s : State) (r : Region) (lo : Nat) (vs : List Int) : State :=
  s.storeWords (r.base + lo) (vs.map enc32)

/-- The byte range of the entries `0 .. n-1` of a memory. -/
def Region.bytes (r : Region) (n : Nat) : Nat × Nat := (4 * r.base, 4 * n)

/-- `L = LEN` (spec/10_state.md R38). -/
def State.lenL (s : State) : Nat := s.len.toNat

/-- `k = L / 2` (R38). -/
def State.lenK (s : State) : Nat := s.lenL / 2

/-- `N = L + 2` (R38). -/
def State.lenN (s : State) : Nat := s.lenL + 2

/-- `LEN` is legal: even and `2 .. LMAX` (spec/10_state.md R27). -/
def State.lenLegal (s : State) : Bool :=
  decide (s.lenL % 2 = 0) && decide (2 ≤ s.lenL) && decide (s.lenL ≤ Config.lmax)

/-- The three narrowing modes of `CTRL.QMODE` (spec/10_state.md R26). -/
inductive QMode where
  /-- `SAT_S8`: signed 8-bit, saturating -/
  | satS8
  /-- `WRAP_S8`: signed 8-bit, wrapping -/
  | wrapS8
  /-- `SAT_U8`: unsigned 8-bit, saturating -/
  | satU8
deriving DecidableEq, Repr

/-- The mode that `CTRL.QMODE` selects; 3 is reserved and selects none (R26). -/
def State.narrowing (s : State) : Option QMode :=
  match s.qmode.toNat with
  | 0 => some .satS8
  | 1 => some .wrapS8
  | 2 => some .satU8
  | _ => none

/-- The dequantizer `deq(b) = b * STEP` (spec/41_pack.md R90). -/
def State.deq (s : State) (b : Byte) : Int := b.toNat * s.stepSize.toNat

/-- The quantizer's first stage `rq(v) = rdiv(v, STEP)` (spec/44_unpack.md R110). -/
def State.rq (s : State) (v : Int) : Int := rdiv v s.stepSize.toNat

/-- The quantizer's second stage: the pattern stored (spec/44_unpack.md R111). -/
def narrow : QMode → Int → Byte
  | .satS8, r => BitVec.ofInt 8 (min 127 (max (-128) r))
  | .wrapS8, r => BitVec.ofInt 8 (r % 256)
  | .satU8, r => BitVec.ofInt 8 (min 255 (max 0 r))

/-- A completion without error (spec/40_control.md R86). -/
def completed (s : State) : Host.Outcome State Fault Refusal := .next s.finish

/-- A completion that raises (R86, spec/60_exceptions.md R133). -/
def raised (s : State) (e : ErrCode) : Host.Outcome State Fault Refusal := .next (s.raise e)

/-- Check 2 of spec/40_control.md R87: `LEN` is legal, else `ERR_LEN`. -/
def checkLen (s : State) (body : Host.Outcome State Fault Refusal) : Host.Outcome State Fault Refusal :=
  if s.lenLegal then body else raised s .len

/-- Check 3 of R87, first line: `STEP` is not 0, else `ERR_CFG`. -/
def checkStep (s : State) (body : Host.Outcome State Fault Refusal) : Host.Outcome State Fault Refusal :=
  if s.stepSize = 0#16 then raised s .cfg else body

/-- Check 3 of R87, second line: `QMODE` is not 3, else `ERR_CFG`; the body is given the mode. -/
def checkMode (s : State) (body : QMode → Host.Outcome State Fault Refusal) : Host.Outcome State Fault Refusal :=
  match s.narrowing with
  | some m => body m
  | none => raised s .cfg

/-- The end of a body that may raise `ERR_VOD` (check 4 of R87): on `ERR_VOD` the destinations of the command become
unspecified (spec/60_exceptions.md R133). -/
def checkResult (s : State) (destinations : List (Nat × Nat)) (result : Option State) :
    Host.Outcome State Fault Refusal :=
  match result with
  | some t => completed t
  | none => raised (s.unspecify destinations) .vod

end Sys2Proof.Machine
end

