-- ==== Sys2Proof/Machine/Pack.lean ====
section
/-! DEFINITION. The dequantizer and packer: PACK (spec/41_pack.md R90, R91). -/

namespace Sys2Proof.Machine

/-- The real parts of the head bins `0 .. k+1`: the sentinel, the first half of the block, the terminal 0 (R91). -/
def State.headRe (s : State) : List Int :=
  [s.sent.toInt] ++ ((List.range s.lenK).map fun t => s.deq (s.bb t)) ++ [0]

/-- The imaginary parts of the head bins: 0, the second half of the block, the terminal 0 (R91). -/
def State.headIm (s : State) : List Int :=
  [0] ++ ((List.range s.lenK).map fun t => s.deq (s.bb (s.lenK + t))) ++ [0]

/-- The body of PACK (R91). -/
def packBody (s : State) : State := (s.storeCells .sr 0 s.headRe).storeCells .si 0 s.headIm

/-- PACK (spec/41_pack.md R91). -/
def execPack (s : State) : Host.Outcome State Fault Refusal :=
  checkLen s (checkStep s (completed (packBody s)))

end Sys2Proof.Machine
end

