-- ==== Sys2Proof/Machine/Symmetry.lean ====
section
/-! DEFINITION. The conjugate-symmetry enforcer: SYM (spec/42_symmetry.md R95). -/

namespace Sys2Proof.Machine

/-- Some `SI[j]`, `1 <= j <= k`, is `-2^31`: its negation does not fit (R95). -/
def State.negationOverflows (s : State) : Bool :=
  (List.range s.lenK).any fun t => decide (s.cell .si (t + 1) = -2 ^ 31)

/-- The real parts of the mirror bins `k+2 .. N-1`: bin `m` takes `SR[N - m]` (R95 with `j = N - m`). -/
def State.mirrorRe (s : State) : List Int :=
  (List.range s.lenK).map fun u => s.cell .sr (s.lenN - (s.lenK + 2 + u))

/-- The imaginary parts of the mirror bins: bin `m` takes `-SI[N - m]`. -/
def State.mirrorIm (s : State) : List Int :=
  (List.range s.lenK).map fun u => -s.cell .si (s.lenN - (s.lenK + 2 + u))

/-- The body of SYM; none when it raises, and then nothing is written (R95). -/
def symBody (s : State) : Option State :=
  if s.negationOverflows then none
  else some ((s.storeCells .sr (s.lenK + 2) s.mirrorRe).storeCells .si (s.lenK + 2) s.mirrorIm)

/-- SYM (spec/42_symmetry.md R95). Its `ERR_VOD` is precise: no cell has changed (spec/60_exceptions.md R133). -/
def execSym (s : State) : Host.Outcome State Fault Refusal :=
  checkLen s (match symBody s with
    | some t => completed t
    | none => raised s .vod)

end Sys2Proof.Machine
end

