-- ==== Sys2Proof/Machine/Transform.lean ====
section
/-! DEFINITION. The transforms over the programmable table: IFFT and FFT (spec/43_transform.md R100 to R102). Both are
defined by their result: the exact sum as written, one rounded division per component. -/

namespace Sys2Proof.Machine

/-- An element of a list of complex values. The indices used are always below the length. -/
def cpxAt (xs : List Cpx) (i : Nat) : Cpx := xs.getD i ⟨0, 0⟩

/-- The table index of the forward transform, `(j * n) mod N` (R102). -/
def forwardIndex (n j i : Nat) : Nat := (j * i) % n

/-- The table index of the inverse transform, `(N - ((j * n) mod N)) mod N` (R101): the table walked backwards. -/
def inverseIndex (n j i : Nat) : Nat := (n - (j * i) % n) % n

/-- One output of a transform of length `n`: the sum of `cmul` of the inputs and the table entries, each component
divided by `d` with one rounding. -/
def transformAt (n : Nat) (xs table : List Cpx) (index : Nat → Nat) (d : Int) : Cpx :=
  let c := cpxSum n fun i => cmul (cpxAt xs i) (cpxAt table (index i))
  ⟨rdiv c.re d, rdiv c.im d⟩

/-- The outputs of the inverse transform (R101): the divisor is `N * 2^30`. -/
def inverseOutputs (n : Nat) (spectrum table : List Cpx) : List Cpx :=
  (List.range n).map fun m => transformAt n spectrum table (fun j => inverseIndex n j m) (n * 2 ^ Config.tfrac)

/-- The outputs of the forward transform (R102): the divisor is `2^30`. -/
def forwardOutputs (n : Nat) (samples table : List Cpx) : List Cpx :=
  (List.range n).map fun j => transformAt n samples table (fun m => forwardIndex n j m) (2 ^ Config.tfrac)

/-- The table entries `0 .. N-1` (R100: entries `N .. 1025` are not read). -/
def State.table (s : State) : List Cpx := s.complexCells .twr .twi s.lenN

/-- The samples a forward transform reads: with `R = 1` `AI` is taken as 0 and not read (spec/30_encoding.md R72). -/
def State.samples (s : State) (r : Bool) : List Cpx :=
  if r then s.realSamples s.lenN else s.complexCells .ar .ai s.lenN

/-- Complex results stored into a pair of memories from entry 0, if every component fits a cell; else none, with nothing
stored (spec/00_scope.md R10). -/
def State.storeResults (s : State) (re im : Region) (outs : List Cpx) : Option State :=
  if outs.all Cpx.fits then
    some ((s.storeCells re 0 (outs.map Cpx.re)).storeCells im 0 (outs.map Cpx.im))
  else none

/-- The body of IFFT (spec/43_transform.md R101); none when it raises. -/
def ifftBody (s : State) : Option State :=
  s.storeResults .ar .ai (inverseOutputs s.lenN (s.complexCells .sr .si s.lenN) s.table)

/-- The body of FFT (spec/43_transform.md R102); none when it raises. -/
def fftBody (r : Bool) (s : State) : Option State :=
  s.storeResults .sr .si (forwardOutputs s.lenN (s.samples r) s.table)

/-- The cells of the spectrum `S[0 .. N-1]` as byte ranges. -/
def State.spectrumBytes (s : State) : List (Nat × Nat) := [Region.sr.bytes s.lenN, Region.si.bytes s.lenN]

/-- The cells of the samples `A[0 .. N-1]` as byte ranges. -/
def State.sampleBytes (s : State) : List (Nat × Nat) := [Region.ar.bytes s.lenN, Region.ai.bytes s.lenN]

/-- IFFT (spec/43_transform.md R101). -/
def execIfft (s : State) : Host.Outcome State Fault Refusal :=
  checkLen s (checkResult s s.sampleBytes (ifftBody s))

/-- FFT (spec/43_transform.md R102). -/
def execFft (r : Bool) (s : State) : Host.Outcome State Fault Refusal :=
  checkLen s (checkResult s s.spectrumBytes (fftBody r s))

end Sys2Proof.Machine
end

