-- ==== Sys2Proof/Machine/Unpack.lean ====
section
/-! DEFINITION. The unpacker and quantizer: UNPACK (spec/44_unpack.md R110 to R112). -/

namespace Sys2Proof.Machine

/-- The block that UNPACK produces: the `k` real parts of bins `1 .. k`, then the `k` imaginary parts (R112). -/
def State.unpackedBlock (s : State) (m : QMode) : List Byte :=
  ((List.range s.lenK).map fun t => narrow m (s.rq (s.cell .sr (t + 1)))) ++
  ((List.range s.lenK).map fun t => narrow m (s.rq (s.cell .si (t + 1))))

/-- The body of UNPACK (R112). -/
def unpackBody (m : QMode) (s : State) : State := s.storeBytes bbAddr (s.unpackedBlock m)

/-- The cells of the block `BB[0 .. L-1]` as a byte range. -/
def State.blockBytes (s : State) : List (Nat × Nat) := [(bbAddr, s.lenL)]

/-- UNPACK (spec/44_unpack.md R112). -/
def execUnpack (s : State) : Host.Outcome State Fault Refusal :=
  checkLen s (checkStep s (checkMode s fun m => completed (unpackBody m s)))

end Sys2Proof.Machine
end

