-- ==== Sys2Proof/Machine/Composite.lean ====
section
/-! DEFINITION. The composite commands ENCODE, VERIFY and DECODE (spec/45_composite.md R120 to R122): the bodies of the
primitive commands in sequence, the checks made once before any part runs. -/

namespace Sys2Proof.Machine

/-- The body of ENCODE (R120): PACK, SYM, IFFT. -/
def encodeBody (s : State) : Option State := (symBody (packBody s)).bind ifftBody

/-- ENCODE (spec/45_composite.md R120). On `ERR_VOD` every cell listed as written is unspecified. -/
def execEncode (s : State) : Host.Outcome State Fault Refusal :=
  checkLen s (checkStep s (checkResult s (s.spectrumBytes ++ s.sampleBytes) (encodeBody s)))

/-- The body of DECODE (R122): FFT with `R = 1`, UNPACK. -/
def decodeBody (m : QMode) (s : State) : Option State := (fftBody true s).map (unpackBody m)

/-- DECODE (spec/45_composite.md R122). -/
def execDecode (s : State) : Host.Outcome State Fault Refusal :=
  checkLen s (checkStep s (checkMode s fun m =>
    checkResult s (s.spectrumBytes ++ s.blockBytes) (decodeBody m s)))

/-- The number of positions at which the rounded, un-narrowed value equals the byte of `BB` (R121). -/
def State.matches (s : State) : Nat :=
  (List.range s.lenK).countP (fun t => decide (s.rq (s.cell .sr (t + 1)) = (s.bb t).toNat)) +
  (List.range s.lenK).countP (fun t => decide (s.rq (s.cell .si (t + 1)) = (s.bb (s.lenK + t)).toNat))

/-- `MATCH <- c`. -/
def State.setMatch (s : State) (c : Nat) : State := { s with matchCount := BitVec.ofNat 11 c }

/-- The body of VERIFY (R121): FFT with `R = 1`, then the count. -/
def verifyBody (s : State) : Option State := (fftBody true s).map fun t => t.setMatch t.matches

/-- VERIFY (spec/45_composite.md R121). On `ERR_VOD` the spectrum is unspecified and `MATCH` unchanged. -/
def execVerify (s : State) : Host.Outcome State Fault Refusal :=
  checkLen s (checkStep s (checkResult s s.spectrumBytes (verifyBody s)))

end Sys2Proof.Machine
end

