-- ==== Sys2Proof/Machine/Control.lean ====
section
/-! DEFINITION. The commands that touch no data: NOP and CLRERR (spec/40_control.md R88, R89). -/

namespace Sys2Proof.Machine

/-- NOP (spec/40_control.md R88): nothing but the completion. -/
def execNop (s : State) : Host.Outcome State Fault Refusal := completed s

/-- CLRERR (spec/40_control.md R89): the return from the halted state. -/
def execClrerr (s : State) : Host.Outcome State Fault Refusal := completed s.clearErrors

end Sys2Proof.Machine
end

