-- ==== Sys2Proof/Machine/Dispatch.lean ====
section
/-! DEFINITION. One arm per command: its execution at the completion step (spec/40_control.md R86, R87). -/

namespace Sys2Proof.Machine

def exec (i : Instr) (s : State) : Host.Outcome State Fault Refusal :=
  match i with
  | .nop => Sys2Proof.Machine.execNop s
  | .pack => Sys2Proof.Machine.execPack s
  | .sym => Sys2Proof.Machine.execSym s
  | .ifft => Sys2Proof.Machine.execIfft s
  | .fft r => Sys2Proof.Machine.execFft r s
  | .unpack => Sys2Proof.Machine.execUnpack s
  | .encode => Sys2Proof.Machine.execEncode s
  | .decode => Sys2Proof.Machine.execDecode s
  | .verify => Sys2Proof.Machine.execVerify s
  | .clrerr => Sys2Proof.Machine.execClrerr s

end Sys2Proof.Machine
end

