-- ==== Sys2Proof/Machine/Engine.lean ====
section
/-! DEFINITION. The engine's one step, completion (spec/40_control.md R86): the word in `CUR` is decoded and executed. -/

namespace Sys2Proof.Machine

/-- The completion step (R86): a word that is no command raises `ERR_CMD` and changes nothing but `STATUS`
(check 1 of R87, spec/30_encoding.md R73). -/
def complete (s : State) : Host.Outcome State Fault Refusal :=
  match decode s.cur with
  | .ok i => exec i s
  | .error _ => raised s .cmd

/-- The engine's turn: completion is enabled exactly when `BUSY = 1` (R86); otherwise nothing happens. -/
def engineTurn (s : State) : Host.Outcome State Fault Refusal :=
  if s.busy then complete s else .next s

end Sys2Proof.Machine
end

