-- ==== Sys2Proof/Machine/Port.lean ====
section
/-! DEFINITION. The host port (spec/20_memory.md R50 to R59): the address map, `HostRead`, `HostWrite`, the busy gate, the
offer of a command (spec/40_control.md R85), and the reset input (spec/70_reset_and_hazards.md R150). -/

namespace Sys2Proof.Machine

/-- What a word offset of the window names (spec/20_memory.md R51, spec/10_state.md R22). -/
inductive PortCell where
  | id | cmd | status | ctrl | len | step | sent | matches
  /-- an assigned word of `BB` or an assigned entry of `TWR`, `TWI`, `SR`, `SI`, `AR`, `AI` -/
  | memory
  /-- a control offset `0x0008 .. 0x000F` or an unassigned offset (R54) -/
  | unassigned
deriving DecidableEq, Repr

/-- The offset is an assigned entry of a memory of 32-bit cells: `NMAX` entries from its base (R51). -/
def Region.holds (r : Region) (off : Nat) : Bool :=
  decide (r.base ≤ off) && decide (off < r.base + Config.nmax)

/-- The offset is an assigned word of a data memory (R51): one of the 256 words of `BB`, or an assigned entry. -/
def memoryOffset (off : Nat) : Bool :=
  (decide (0x0400 ≤ off) && decide (off ≤ 0x04FF)) ||
  Region.twr.holds off || Region.twi.holds off || Region.sr.holds off ||
  Region.si.holds off || Region.ar.holds off || Region.ai.holds off

/-- The address map of R51 and R22. -/
def portCell (off : Nat) : PortCell :=
  if off = 0x0000 then .id
  else if off = 0x0001 then .cmd
  else if off = 0x0002 then .status
  else if off = 0x0003 then .ctrl
  else if off = 0x0004 then .len
  else if off = 0x0005 then .step
  else if off = 0x0006 then .sent
  else if off = 0x0007 then .matches
  else if memoryOffset off then .memory
  else .unassigned

/-- The word a cell of the window holds (spec/10_state.md R22 to R31, spec/20_memory.md R54, R55): what a read returns
while the engine is idle. -/
def State.portWord (s : State) (off : Nat) : Word :=
  match portCell off with
  | .id => Config.idWord
  | .cmd => 0#32
  | .status => s.statusWord
  | .ctrl => s.qmode.setWidth 32
  | .len => s.len.setWidth 32
  | .step => s.stepSize.setWidth 32
  | .sent => s.sent
  | .matches => s.matchCount.setWidth 32
  | .memory => s.wordAt off
  | .unassigned => 0#32

/-- The cells whose reads are unspecified while the engine is busy: `MATCH` and the data memories (R59). -/
def PortCell.hiddenWhileBusy : PortCell → Bool
  | .matches => true
  | .memory => true
  | _ => false

/-- The port returns a word to the host. -/
def State.reply (s : State) (w : Word) : State := { s with replies := w :: s.replies }

/-- `HostRead(off)` (R50, R56, R59). A read changes no state of the machine. While the engine is busy, a read of `MATCH`
or of a data memory returns a free word, a new one for every read (spec/93_implementation_defined.md U2). -/
def hostRead (off : Nat) (s : State) : Host.Outcome State Fault Refusal :=
  if Config.windowSize ≤ off then .fault .outsideWindow
  else if s.busy && (portCell off).hiddenWhileBusy then
    .next { s.reply (Config.freeWord s.draws) with draws := s.draws + 1 }
  else .next (s.reply (s.portWord off))

/-- A write to `CMD`: the offer of a command (spec/40_control.md R85). In the halted state only the exact word of CLRERR
is accepted. -/
def offer (w : Word) (s : State) : State :=
  if s.busy then s.reject
  else if s.halted && w != 0x00000009#32 then s.reject
  else s.accept w

/-- A write behind the busy gate (spec/20_memory.md R58): rejected while the engine is busy. -/
def gated (s t : State) : State := if s.busy then s.reject else t

/-- `HostWrite(off, v)` (spec/20_memory.md R50, R52, R54, R55, R58; the implemented bits are those of spec/10_state.md R22).
Writes to `ID`, `STATUS`, `MATCH` and to unassigned offsets are ignored. -/
def hostWrite (off : Nat) (v : Word) (s : State) : Host.Outcome State Fault Refusal :=
  if Config.windowSize ≤ off then .fault .outsideWindow
  else
    .next (match portCell off with
      | .id => s
      | .cmd => offer v s
      | .status => s
      | .ctrl => gated s { s with qmode := v.extractLsb' 0 2 }
      | .len => gated s { s with len := v.extractLsb' 0 11 }
      | .step => gated s { s with stepSize := v.extractLsb' 0 16 }
      | .sent => gated s { s with sent := v }
      | .matches => s
      | .memory => gated s (s.storeWords off [v])
      | .unassigned => s)

/-- The reset event (spec/70_reset_and_hazards.md R150): every register as in R39, the memories unspecified anew, a busy
command abandoned. What the host has seen and will still do is not the machine's and stays (log entry 8). -/
def resetEvent (s : State) : State :=
  { State.reset with
    events := s.events, replies := s.replies, draws := s.draws + 1, epoch := s.draws }

end Sys2Proof.Machine
end

