-- ==== Sys2Proof/Machine/Step.lean ====
section
/-! DEFINITION. One step of the machine: the next event takes effect (spec/10_state.md R21, spec/20_memory.md R57). -/

namespace Sys2Proof.Machine

/-- One step. The events take effect one at a time in their order (R57, R60). When nothing is left that the host does, a
busy engine completes: completion is eventual (spec/70_reset_and_hazards.md R160); an idle machine waits. -/
def step (s : State) : Host.Outcome State Fault Refusal :=
  match s.events with
  | [] => engineTurn s
  | .engine :: rest => engineTurn { s with events := rest }
  | .read off :: rest => hostRead off { s with events := rest }
  | .write off v :: rest => hostWrite off v { s with events := rest }
  | .reset :: rest => .next (resetEvent { s with events := rest })

/-- `s` with a command word accepted and the engine's turn next, so that the very next step is its completion
(log entry 2). -/
def State.withFetchWord (s : State) (nbits w : Nat) : State :=
  { s with
    cur := BitVec.ofNat 32 (w % 2 ^ nbits), busy := true, done := false, events := .engine :: s.events }

end Sys2Proof.Machine
end

