-- ==== Sys2Proof/Machine/Script.lean ====
section
/-! DEFINITION. The host-script notation (spec/30_encoding.md R75, R76): what the lines of a host program do at the port. The
notation is no part of the engine; it says which events a program is. -/

namespace Sys2Proof.Machine

/-- The lines of a host script (R75) and its pseudo-lines (R76). -/
inductive Line where
  /-- `WR off, value`: the signed value stands for its `enc_32` pattern -/
  | wr (off : Nat) (value : Int)
  /-- `RD off -> x`; `EXPECT off = value` is this read and a claim about its result -/
  | rd (off : Nat)
  /-- `CMD mnemonic` -/
  | cmd (i : Instr)
  /-- `WAIT`, with the number of polls that find the engine busy before it completes (any number, R160) -/
  | wait (busyPolls : Nat)
  /-- `RUN mnemonic` -/
  | run (i : Instr) (busyPolls : Nat)
  /-- `LDB b0, b1, ...`: a multiple of four bytes -/
  | ldb (block : List Byte)
  /-- `LDTW N`, with the table of length `N` that the host computed (spec/43_transform.md R103) -/
  | ldtw (table : List Cpx)
  /-- `LDA x0, x1, ...` -/
  | lda (samples : List Int)
deriving DecidableEq, Repr

/-- The writes of `LDB`: four bytes a word, the lowest-numbered in the lowest bits (spec/20_memory.md R52). -/
def loadBlock : Nat → List Byte → List Event
  | off, b0 :: b1 :: b2 :: b3 :: bs => .write off (bytesWord b0 b1 b2 b3) :: loadBlock (off + 1) bs
  | _, _ => []

/-- The writes of `LDTW`: `TWR[m]` and `TWI[m]` in turn, `m` rising. -/
def loadTable : Nat → List Cpx → List Event
  | _, [] => []
  | m, z :: zs =>
    .write (Region.twr.base + m) (enc32 z.re) :: .write (Region.twi.base + m) (enc32 z.im) :: loadTable (m + 1) zs

/-- The writes of `LDA`. -/
def loadSamples : Nat → List Int → List Event
  | _, [] => []
  | n, x :: xs => .write (Region.ar.base + n) (enc32 x) :: loadSamples (n + 1) xs

/-- `WAIT`: `STATUS` is read until `BUSY = 0`. The engine's turn comes after the given number of polls (log entry 13). -/
def waitEvents (busyPolls : Nat) : List Event :=
  List.replicate busyPolls (.read 0x0002) ++ [.engine, .read 0x0002]

/-- The events of a line (R75, R76). -/
def Line.events : Line → List Event
  | .wr off v => [.write off (enc32 v)]
  | .rd off => [.read off]
  | .cmd i => [.write 0x0001 (encode i)]
  | .wait p => waitEvents p
  | .run i p => .write 0x0001 (encode i) :: waitEvents p
  | .ldb bs => loadBlock 0x0400 bs
  | .ldtw t => loadTable 0 t
  | .lda xs => loadSamples 0 xs

/-- The events of a script: its lines in order. -/
def scriptEvents (lines : List Line) : List Event := lines.flatMap Line.events

end Sys2Proof.Machine
end

