-- ==== Sys2Proof/Machine/StandardTable.lean ====
section
/-! DEFINITION. The standard twiddle tables whose numbers the spec lists (spec/43_transform.md R103,
spec/95_test_vectors.md V01 to V03, spec/96_standard_table_1026.md). The engine neither generates nor checks a table: these
are what a host loads with `LDTW` (spec/30_encoding.md R76). The spec marks the numbers as general knowledge
(log entry 12). -/

namespace Sys2Proof.Machine

/-- The standard table for `N = 4` (V01), exact. -/
def standardTable4 : List Cpx :=
  [⟨1073741824, 0⟩, ⟨0, -1073741824⟩, ⟨-1073741824, 0⟩, ⟨0, 1073741824⟩]

/-- The standard table for `N = 6` (V02). -/
def standardTable6 : List Cpx :=
  [⟨1073741824, 0⟩, ⟨536870912, -929887697⟩, ⟨-536870912, -929887697⟩,
   ⟨-1073741824, 0⟩, ⟨-536870912, 929887697⟩, ⟨536870912, 929887697⟩]

/-- The standard table for `N = 8` (V03). -/
def standardTable8 : List Cpx :=
  [⟨1073741824, 0⟩, ⟨759250125, -759250125⟩, ⟨0, -1073741824⟩, ⟨-759250125, -759250125⟩,
   ⟨-1073741824, 0⟩, ⟨-759250125, 759250125⟩, ⟨0, 1073741824⟩, ⟨759250125, 759250125⟩]

/-- The standard table for `N = 12` (V03). -/
def standardTable12 : List Cpx :=
  [⟨1073741824, 0⟩, ⟨929887697, -536870912⟩, ⟨536870912, -929887697⟩, ⟨0, -1073741824⟩,
   ⟨-536870912, -929887697⟩, ⟨-929887697, -536870912⟩, ⟨-1073741824, 0⟩, ⟨-929887697, 536870912⟩,
   ⟨-536870912, 929887697⟩, ⟨0, 1073741824⟩, ⟨536870912, 929887697⟩, ⟨929887697, 536870912⟩]

/-- Entries 0 to 31 of the table for `N = 1026`. -/
def entries0 : List Cpx :=
  [⟨1073741824, 0⟩, ⟨1073721690, -6575513⟩, ⟨1073661288, -13150780⟩, ⟨1073560621, -19725554⟩,
   ⟨1073419693, -26299587⟩, ⟨1073238508, -32872635⟩, ⟨1073017073, -39444450⟩, ⟨1072755398, -46014785⟩,
   ⟨1072453491, -52583395⟩, ⟨1072111365, -59150032⟩, ⟨1071729031, -65714452⟩, ⟨1071306504, -72276407⟩,
   ⟨1070843800, -78835651⟩, ⟨1070340937, -85391939⟩, ⟨1069797933, -91945024⟩, ⟨1069214808, -98494661⟩,
   ⟨1068591585, -105040605⟩, ⟨1067928287, -111582609⟩, ⟨1067224938, -118120428⟩, ⟨1066481566, -124653817⟩,
   ⟨1065698197, -131182532⟩, ⟨1064874862, -137706327⟩, ⟨1064011591, -144224957⟩, ⟨1063108417, -150738179⟩,
   ⟨1062165373, -157245748⟩, ⟨1061182495, -163747419⟩, ⟨1060159819, -170242950⟩, ⟨1059097385, -176732096⟩,
   ⟨1057995232, -183214614⟩, ⟨1056853400, -189690260⟩, ⟨1055671934, -196158793⟩, ⟨1054450877, -202619970⟩]

/-- Entries 32 to 63 of the table for `N = 1026`. -/
def entries32 : List Cpx :=
  [⟨1053190275, -209073547⟩, ⟨1051890176, -215519284⟩, ⟨1050550628, -221956938⟩, ⟨1049171681, -228386269⟩,
   ⟨1047753388, -234807034⟩, ⟨1046295800, -241218993⟩, ⟨1044798974, -247621906⟩, ⟨1043262965, -254015532⟩,
   ⟨1041687831, -260399632⟩, ⟨1040073630, -266773966⟩, ⟨1038420424, -273138296⟩, ⟨1036728274, -279492382⟩,
   ⟨1034997243, -285835986⟩, ⟨1033227398, -292168871⟩, ⟨1031418803, -298490798⟩, ⟨1029571528, -304801531⟩,
   ⟨1027685641, -311100834⟩, ⟨1025761212, -317388469⟩, ⟨1023798315, -323664201⟩, ⟨1021797022, -329927795⟩,
   ⟨1019757409, -336179016⟩, ⟨1017679553, -342417629⟩, ⟨1015563530, -348643400⟩, ⟨1013409421, -354856097⟩,
   ⟨1011217307, -361055485⟩, ⟨1008987269, -367241333⟩, ⟨1006719391, -373413408⟩, ⟨1004413758, -379571479⟩,
   ⟨1002070457, -385715315⟩, ⟨999689575, -391844685⟩, ⟨997271203, -397959361⟩, ⟨994815430, -404059111⟩]

/-- Entries 64 to 95 of the table for `N = 1026`. -/
def entries64 : List Cpx :=
  [⟨992322348, -410143709⟩, ⟨989792052, -416212925⟩, ⟨987224636, -422266531⟩, ⟨984620196, -428304302⟩,
   ⟨981978830, -434326010⟩, ⟨979300637, -440331429⟩, ⟨976585717, -446320335⟩, ⟨973834173, -452292503⟩,
   ⟨971046107, -458247708⟩, ⟨968221625, -464185728⟩, ⟨965360831, -470106340⟩, ⟨962463834, -476009321⟩,
   ⟨959530741, -481894450⟩, ⟨956561664, -487761508⟩, ⟨953556712, -493610272⟩, ⟨950516000, -499440525⟩,
   ⟨947439641, -505252048⟩, ⟨944327750, -511044622⟩, ⟨941180444, -516818031⟩, ⟨937997841, -522572057⟩,
   ⟨934780061, -528306486⟩, ⟨931527224, -534021101⟩, ⟨928239451, -539715689⟩, ⟨924916868, -545390037⟩,
   ⟨921559597, -551043931⟩, ⟨918167765, -556677159⟩, ⟨914741500, -562289510⟩, ⟨911280929, -567880774⟩,
   ⟨907786183, -573450740⟩, ⟨904257392, -578999201⟩, ⟨900694688, -584525947⟩, ⟨897098207, -590030772⟩]

/-- Entries 96 to 127 of the table for `N = 1026`. -/
def entries96 : List Cpx :=
  [⟨893468081, -595513470⟩, ⟨889804448, -600973834⟩, ⟨886107445, -606411659⟩, ⟨882377210, -611826743⟩,
   ⟨878613884, -617218881⟩, ⟨874817607, -622587872⟩, ⟨870988522, -627933514⟩, ⟨867126773, -633255607⟩,
   ⟨863232504, -638553951⟩, ⟨859305861, -643828348⟩, ⟨855346992, -649078599⟩, ⟨851356045, -654304508⟩,
   ⟨847333170, -659505878⟩, ⟨843278517, -664682516⟩, ⟨839192240, -669834226⟩, ⟨835074490, -674960815⟩,
   ⟨830925422, -680062091⟩, ⟨826745192, -685137863⟩, ⟨822533958, -690187940⟩, ⟨818291875, -695212134⟩,
   ⟨814019105, -700210255⟩, ⟨809715807, -705182116⟩, ⟨805382142, -710127531⟩, ⟨801018273, -715046314⟩,
   ⟨796624363, -719938281⟩, ⟨792200578, -724803248⟩, ⟨787747083, -729641033⟩, ⟨783264045, -734451455⟩,
   ⟨778751633, -739234332⟩, ⟨774210016, -743989487⟩, ⟨769639363, -748716739⟩, ⟨765039847, -753415913⟩]

/-- Entries 128 to 159 of the table for `N = 1026`. -/
def entries128 : List Cpx :=
  [⟨760411640, -758086831⟩, ⟨755754915, -762729319⟩, ⟨751069847, -767343202⟩, ⟨746356612, -771928308⟩,
   ⟨741615386, -776484465⟩, ⟨736846348, -781011501⟩, ⟨732049676, -785509247⟩, ⟨727225550, -789977534⟩,
   ⟨722374151, -794416195⟩, ⟨717495661, -798825063⟩, ⟨712590263, -803203972⟩, ⟨707658141, -807552760⟩,
   ⟨702699480, -811871262⟩, ⟨697714465, -816159316⟩, ⟨692703284, -820416763⟩, ⟨687666125, -824643441⟩,
   ⟨682603177, -828839193⟩, ⟨677514629, -833003861⟩, ⟨672400672, -837137289⟩, ⟨667261499, -841239322⟩,
   ⟨662097301, -845309806⟩, ⟨656908273, -849348589⟩, ⟨651694608, -853355519⟩, ⟨646456504, -857330446⟩,
   ⟨641194155, -861273220⟩, ⟨635907760, -865183694⟩, ⟨630597517, -869061722⟩, ⟨625263625, -872907157⟩,
   ⟨619906283, -876719856⟩, ⟨614525693, -880499675⟩, ⟨609122057, -884246473⟩, ⟨603695577, -887960109⟩]

/-- Entries 160 to 191 of the table for `N = 1026`. -/
def entries160 : List Cpx :=
  [⟨598246456, -891640444⟩, ⟨592774900, -895287341⟩, ⟨587281113, -898900661⟩, ⟨581765301, -902480271⟩,
   ⟨576227672, -906026034⟩, ⟨570668432, -909537820⟩, ⟨565087791, -913015495⟩, ⟨559485957, -916458929⟩,
   ⟨553863141, -919867994⟩, ⟨548219554, -923242561⟩, ⟨542555407, -926582503⟩, ⟨536870912, -929887697⟩,
   ⟨531166283, -933158017⟩, ⟨525441734, -936393341⟩, ⟨519697480, -939593547⟩, ⟨513933735, -942758516⟩,
   ⟨508150717, -945888129⟩, ⟨502348641, -948982269⟩, ⟨496527726, -952040819⟩, ⟨490688190, -955063665⟩,
   ⟨484830252, -958050694⟩, ⟨478954131, -961001792⟩, ⟨473060048, -963916851⟩, ⟨467148224, -966795760⟩,
   ⟨461218880, -969638411⟩, ⟨455272240, -972444699⟩, ⟨449308525, -975214517⟩, ⟨443327961, -977947761⟩,
   ⟨437330770, -980644330⟩, ⟨431317178, -983304122⟩, ⟨425287410, -985927037⟩, ⟨419241693, -988512978⟩]

/-- Entries 192 to 223 of the table for `N = 1026`. -/
def entries192 : List Cpx :=
  [⟨413180254, -991061846⟩, ⟨407103319, -993573547⟩, ⟨401011116, -996047986⟩, ⟨394903874, -998485070⟩,
   ⟨388781823, -1000884708⟩, ⟨382645190, -1003246811⟩, ⟨376494208, -1005571288⟩, ⟨370329106, -1007858054⟩,
   ⟨364150116, -1010107023⟩, ⟨357957469, -1012318110⟩, ⟨351751397, -1014491232⟩, ⟨345532134, -1016626307⟩,
   ⟨339299913, -1018723257⟩, ⟨333054967, -1020782001⟩, ⟨326797530, -1022802463⟩, ⟨320527838, -1024784568⟩,
   ⟨314246124, -1026728240⟩, ⟨307952626, -1028633406⟩, ⟨301647579, -1030499996⟩, ⟨295331219, -1032327940⟩,
   ⟨289003783, -1034117168⟩, ⟨282665509, -1035867614⟩, ⟨276316634, -1037579213⟩, ⟨269957396, -1039251899⟩,
   ⟨263588035, -1040885610⟩, ⟨257208788, -1042480285⟩, ⟨250819895, -1044035864⟩, ⟨244421595, -1045552289⟩,
   ⟨238014129, -1047029502⟩, ⟨231597737, -1048467450⟩, ⟨225172659, -1049866076⟩, ⟨218739137, -1051225330⟩]

/-- Entries 224 to 255 of the table for `N = 1026`. -/
def entries224 : List Cpx :=
  [⟨212297411, -1052545160⟩, ⟨205847724, -1053825517⟩, ⟨199390316, -1055066352⟩, ⟨192925431, -1056267619⟩,
   ⟨186453311, -1057429273⟩, ⟨179974198, -1058551271⟩, ⟨173488336, -1059633570⟩, ⟨166995967, -1060676129⟩,
   ⟨160497336, -1061678911⟩, ⟨153992685, -1062641876⟩, ⟨147482260, -1063564990⟩, ⟨140966303, -1064448217⟩,
   ⟨134445060, -1065291524⟩, ⟨127918774, -1066094879⟩, ⟨121387692, -1066858253⟩, ⟨114852057, -1067581617⟩,
   ⟨108312114, -1068264944⟩, ⟨101768110, -1068908208⟩, ⟨95220289, -1069511384⟩, ⟨88668897, -1070074451⟩,
   ⟨82114180, -1070597387⟩, ⟨75556383, -1071080173⟩, ⟨68995753, -1071522791⟩, ⟨62432535, -1071925223⟩,
   ⟨55866975, -1072287455⟩, ⟨49299321, -1072609473⟩, ⟨42729818, -1072891265⟩, ⟨36158712, -1073132821⟩,
   ⟨29586250, -1073334132⟩, ⟨23012678, -1073495189⟩, ⟨16438244, -1073615988⟩, ⟨9863193, -1073696522⟩]

/-- Entries 256 to 256 of the table for `N = 1026`. -/
def entries256 : List Cpx :=
  [⟨3287772, -1073736790⟩]

/-- Entries 0 to 256 of the table for `N = 1026`, as spec/96_standard_table_1026.md lists them. -/
def quarterTable : List Cpx :=
  entries0 ++ entries32 ++ entries64 ++ entries96 ++ entries128 ++ entries160 ++ entries192 ++ entries224 ++ entries256

/-- Entries 0 to 513: `TWR[m] = -TWR[513 - m]`, `TWI[m] = TWI[513 - m]` for `m = 257 .. 513`. -/
def halfTable : List Cpx := quarterTable ++ quarterTable.reverse.map fun z => ⟨-z.re, z.im⟩

/-- The standard table for `N = 1026`: `TWR[m] = TWR[1026 - m]`, `TWI[m] = -TWI[1026 - m]` for `m = 514 .. 1025`. -/
def standardTable1026 : List Cpx := halfTable ++ (halfTable.drop 1).dropLast.reverse.map fun z => ⟨z.re, -z.im⟩

end Sys2Proof.Machine
end

