-- ==== Sys2Proof/Safety.lean ====
section
/-! DEFINITION. What counts as a safe state and the terms the claims use: the invariant of the machine, the symmetry of a
spectrum and of a table (spec/42_symmetry.md R96, spec/43_transform.md R104), the standard table and the error bound
(R103, R105). -/

namespace Sys2Proof.Safety

open Sys2Proof.Machine

/-- What every step keeps: memory is in canonical form and lists assigned cells only (spec/20_memory.md R51, R54);
`BUSY` and `DONE` are never both 1 (spec/10_state.md R25); a halted engine is busy with nothing but CLRERR
(spec/60_exceptions.md R134); `MATCH` is at most 1024 (spec/10_state.md R30); and, of the model's own fields, the draw of the
unwritten memories is an earlier one. -/
structure Inv (s : State) : Prop where
  memCanonical : s.mem.wf = true
  memAssigned : ∀ c ∈ s.mem, memoryOffset (c.1 / 4) = true
  notBusyAndDone : ¬(s.busy = true ∧ s.done = true)
  haltedRunsClrerrOnly : s.busy = true → s.err ≠ .noError → s.cur = 0x00000009#32
  matchInRange : s.matchCount.toNat ≤ Config.lmax
  epochDrawn : s.epoch < s.draws

/-- The byte address lies in the entries `lo .. hi-1` of a memory of 32-bit cells. -/
def inCells (r : Region) (lo hi a : Nat) : Prop := 4 * (r.base + lo) ≤ a ∧ a < 4 * (r.base + hi)

/-- The byte address is that of one of `BB[0 .. n-1]`. -/
def inBlock (n a : Nat) : Prop := bbAddr ≤ a ∧ a < bbAddr + n

/-- Every host access of the list is inside the port's window (spec/20_memory.md R50). -/
def InWindow (es : List Event) : Prop :=
  ∀ e ∈ es, (∀ off, e = .read off → off < Config.windowSize) ∧
    (∀ off v, e = .write off v → off < Config.windowSize)

/-- The spectrum `S[0 .. N-1]` is Hermitian (spec/42_symmetry.md R96). -/
def Hermitian (s : State) : Prop :=
  s.cell .si 0 = 0 ∧ s.cell .si (s.lenN / 2) = 0 ∧
  ∀ j, 1 ≤ j → j ≤ s.lenN / 2 - 1 →
    s.cell .sr (s.lenN - j) = s.cell .sr j ∧ s.cell .si (s.lenN - j) = -s.cell .si j

/-- The table is symmetric (spec/43_transform.md R104). -/
def SymmetricTable (s : State) : Prop :=
  s.cell .twi 0 = 0 ∧
  ∀ m, 1 ≤ m → m ≤ s.lenN - 1 →
    s.cell .twr (s.lenN - m) = s.cell .twr m ∧ s.cell .twi (s.lenN - m) = -s.cell .twi m

/-- A list of table entries is the standard table of its length `N` (spec/43_transform.md R103): each component is the
integer nearest to `2^30 * cos(2*pi*m / N)` and to `-2^30 * sin(2*pi*m / N)`. -/
def IsStandardTable (table : List Cpx) : Prop :=
  ∀ m, (h : m < table.length) →
    |(table[m].re : ℝ) - 2 ^ 30 * Real.cos (2 * Real.pi * m / table.length)| ≤ 1 / 2 ∧
    |(table[m].im : ℝ) + 2 ^ 30 * Real.sin (2 * Real.pi * m / table.length)| ≤ 1 / 2

/-- The table in the machine is the standard one for `N = LEN + 2` (R103). -/
def HoldsStandardTable (s : State) : Prop := IsStandardTable s.table

/-- The bound `E(N, M) = N/2 + 1/2 + N * (2*M + 1) / 2^31` of spec/43_transform.md R105. -/
def errorBound (n m : ℚ) : ℚ := n / 2 + 1 / 2 + n * (2 * m + 1) / 2 ^ 31

/-! ## What a command leaves, in the terms of its rule -/

/-- The registers that no command writes (spec/00_scope.md R6, and the "writes" of every command's rule): the
configuration registers, and the model's own record of the host. That `CUR` too keeps its word over a completion is the
model's choice (log entry 7): the spec leaves it open (spec/93_implementation_defined.md U4). -/
def ConfigKept (s t : State) : Prop :=
  t.qmode = s.qmode ∧ t.len = s.len ∧ t.stepSize = s.stepSize ∧ t.sent = s.sent ∧ t.cur = s.cur ∧
  t.events = s.events ∧ t.replies = s.replies ∧ t.epoch = s.epoch

/-- `CTRL.QMODE` selects the mode (spec/10_state.md R26): 0 `SAT_S8`, 1 `WRAP_S8`, 2 `SAT_U8`; 3 selects none. -/
def SelectsMode (s : State) (m : QMode) : Prop :=
  (s.qmode = 0#2 ∧ m = .satS8) ∨ (s.qmode = 1#2 ∧ m = .wrapS8) ∨ (s.qmode = 2#2 ∧ m = .satU8)

/-- `STATUS` after a completion without error: `BUSY <- 0`, `DONE <- 1`, `ERR` and `REJ` as before
(spec/40_control.md R86). -/
def CompletedOk (s t : State) : Prop :=
  t.busy = false ∧ t.done = true ∧ t.rej = s.rej ∧ t.err = s.err

/-- `STATUS` after a completion that raises: `ERR <- e`, `BUSY <- 0`, `DONE <- 1` (spec/60_exceptions.md R133). -/
def CompletedWith (s t : State) (e : ErrCode) : Prop :=
  t.busy = false ∧ t.done = true ∧ t.rej = s.rej ∧ t.err = e

/-- The byte address is one that the command's rule lists under "writes", with the indices the rule gives. -/
def Writes (i : Instr) (s : State) (a : Nat) : Prop :=
  match i with
  | .nop => False
  | .clrerr => False
  | .pack => inCells .sr 0 (s.lenK + 2) a ∨ inCells .si 0 (s.lenK + 2) a
  | .sym => inCells .sr (s.lenK + 2) s.lenN a ∨ inCells .si (s.lenK + 2) s.lenN a
  | .ifft => inCells .ar 0 s.lenN a ∨ inCells .ai 0 s.lenN a
  | .fft _ => inCells .sr 0 s.lenN a ∨ inCells .si 0 s.lenN a
  | .unpack => inBlock s.lenL a
  | .encode =>
    inCells .sr 0 s.lenN a ∨ inCells .si 0 s.lenN a ∨ inCells .ar 0 s.lenN a ∨ inCells .ai 0 s.lenN a
  | .decode => inCells .sr 0 s.lenN a ∨ inCells .si 0 s.lenN a ∨ inBlock s.lenL a
  | .verify => inCells .sr 0 s.lenN a ∨ inCells .si 0 s.lenN a

/-- The command uses `LEN` (check 2 of spec/40_control.md R87). -/
def usesLen : Instr → Bool
  | .nop => false
  | .clrerr => false
  | .pack => true
  | .sym => true
  | .ifft => true
  | .fft _ => true
  | .unpack => true
  | .encode => true
  | .decode => true
  | .verify => true

/-- The command uses `STEP` (check 3 of R87). -/
def usesStep : Instr → Bool
  | .nop => false
  | .clrerr => false
  | .pack => true
  | .sym => false
  | .ifft => false
  | .fft _ => false
  | .unpack => true
  | .encode => true
  | .decode => true
  | .verify => true

/-- The command uses `CTRL.QMODE` (check 3 of R87). -/
def usesMode : Instr → Bool
  | .nop => false
  | .clrerr => false
  | .pack => false
  | .sym => false
  | .ifft => false
  | .fft _ => false
  | .unpack => true
  | .encode => false
  | .decode => true
  | .verify => false

/-! ## The transforms as sums -/

/-- Real part of `sum over i < n of cmul (x i) (t (index i))` (spec/00_scope.md R9). -/
def sumRe (n : Nat) (x t : Nat → Cpx) (index : Nat → Nat) : Int :=
  ∑ i ∈ Finset.range n, ((x i).re * (t (index i)).re - (x i).im * (t (index i)).im)

/-- Imaginary part of the same sum. -/
def sumIm (n : Nat) (x t : Nat → Cpx) (index : Nat → Nat) : Int :=
  ∑ i ∈ Finset.range n, ((x i).re * (t (index i)).im + (x i).im * (t (index i)).re)

/-- Output `j` of the forward transform of length `n` of `x` over the table `t` (spec/43_transform.md R102). -/
def forwardCell (n : Nat) (x t : Nat → Cpx) (j : Nat) : Cpx :=
  ⟨rdiv (sumRe n x t fun i => (j * i) % n) (2 ^ 30), rdiv (sumIm n x t fun i => (j * i) % n) (2 ^ 30)⟩

/-- Output `m` of the inverse transform of length `n` of `x` over the table `t` (spec/43_transform.md R101). -/
def inverseCell (n : Nat) (x t : Nat → Cpx) (m : Nat) : Cpx :=
  ⟨rdiv (sumRe n x t fun j => (n - (j * m) % n) % n) (n * 2 ^ 30),
   rdiv (sumIm n x t fun j => (n - (j * m) % n) % n) (n * 2 ^ 30)⟩

/-- `S[j]`. -/
def spectrumOf (s : State) (j : Nat) : Cpx := ⟨s.cell .sr j, s.cell .si j⟩

/-- `T[m]`. -/
def tableOf (s : State) (m : Nat) : Cpx := ⟨s.cell .twr m, s.cell .twi m⟩

/-- `A[n]`. -/
def samplesOf (s : State) (n : Nat) : Cpx := ⟨s.cell .ar n, s.cell .ai n⟩

/-- `(AR[n], 0)`. -/
def realSamplesOf (s : State) (n : Nat) : Cpx := ⟨s.cell .ar n, 0⟩

/-- What FFT takes as sample `n`: `(AR[n], AI[n])` for `R = 0`, `(AR[n], 0)` for `R = 1` (R102). -/
def fftInput (r : Bool) (s : State) : Nat → Cpx := if r then realSamplesOf s else samplesOf s

/-- The spectrum that the block in `BB` stands for: the head of spec/41_pack.md R91 and its conjugate mirror
(spec/42_symmetry.md R95). -/
def blockSpectrum (s : State) (j : Nat) : Cpx :=
  if j = 0 then ⟨s.sent.toInt, 0⟩
  else if j ≤ s.lenK then
    ⟨(s.bb (j - 1)).toNat * s.stepSize.toNat, (s.bb (s.lenK + j - 1)).toNat * s.stepSize.toNat⟩
  else if j = s.lenK + 1 then ⟨0, 0⟩
  else
    ⟨(s.bb (s.lenN - j - 1)).toNat * s.stepSize.toNat,
     -((s.bb (s.lenK + (s.lenN - j) - 1)).toNat * s.stepSize.toNat)⟩

/-- Byte `i` of the block that UNPACK reads from a spectrum `x` (spec/44_unpack.md R112): the `k` real parts of bins
`1 .. k`, then the `k` imaginary parts, each quantized and narrowed. -/
def unpackedByte (s : State) (m : QMode) (x : Nat → Cpx) (i : Nat) : Byte :=
  if i < s.lenK then narrow m (rdiv (x (i + 1)).re s.stepSize.toNat)
  else narrow m (rdiv (x (i - s.lenK + 1)).im s.stepSize.toNat)

end Sys2Proof.Safety
end

