-- ==== Sys2Proof/Certificates/Slice0/Obligations.lean ====
section
/-! DEFINITION. The statements for the provers, each from a numbered rule of spec/ or from what the rules say together. -/

open Sys2Proof Sys2Proof.Machine Sys2Proof.Safety

/-! ## Encoding -/

/-- spec/30_encoding.md R71: the eleven legal words, and the decoder reads a word as a command exactly when it is that
command's word. -/
def Obligations.DecodeExactlyTheEncodedWord : Prop :=
  [Instr.nop, .pack, .sym, .ifft, .fft false, .fft true, .unpack, .encode, .decode, .verify, .clrerr].map encode =
    [0x00000000#32, 0x00000001#32, 0x00000002#32, 0x00000003#32, 0x00000004#32, 0x00000104#32, 0x00000005#32,
      0x00000006#32, 0x00000007#32, 0x00000008#32, 0x00000009#32] ∧
  ∀ (w : Word) (i : Instr), decode w = .ok i ↔ encode i = w

/-- spec/30_encoding.md R73: which words are illegal, by the fields of R70. -/
def Obligations.IllegalWordsByFields : Prop :=
  ∀ w : Word, (∃ e, decode w = .error e) ↔
    (0x0A ≤ w.toNat % 2 ^ 8 ∨ w.toNat / 2 ^ 9 ≠ 0 ∨ (w.toNat / 2 ^ 8 % 2 = 1 ∧ w.toNat % 2 ^ 8 ≠ 0x04))

/-- Words written out from the table of spec/30_encoding.md R71, decoded. -/
def Obligations.TableWordsDecode : Prop :=
  decode 0x00000000#32 = .ok .nop ∧ decode 0x00000001#32 = .ok .pack ∧ decode 0x00000003#32 = .ok .ifft ∧
  decode 0x00000004#32 = .ok (.fft false) ∧ decode 0x00000104#32 = .ok (.fft true) ∧
  decode 0x00000007#32 = .ok .decode ∧ decode 0x00000009#32 = .ok .clrerr ∧
  decode 0x0000000A#32 = .error .opcode ∧ decode 0x00000105#32 = .error .realFlag ∧
  decode 0x00000204#32 = .error .reservedBits

/-! ## The machine as a whole -/

/-- The model's form of spec/70_reset_and_hazards.md R150 and spec/10_state.md R39: every register takes its reset value
and every byte of memory becomes a fresh free value. That `CUR` becomes 0 is not claimed (log entry 7); that the
unspecified memories are one fresh draw is the model's form of "unspecified" (log entries 3, 8). -/
def Obligations.ResetEventGivesResetState : Prop :=
  ∀ (s : State) (rest : List Event), s.events = .reset :: rest →
    ∃ t, step s = .next t ∧ t.statusWord = 0x00000000#32 ∧ t.busy = false ∧ t.done = false ∧ t.rej = false ∧
      t.err = .noError ∧ t.qmode = 0#2 ∧ t.len = 0#11 ∧ t.stepSize = 0#16 ∧ t.sent = 0#32 ∧ t.matchCount = 0#11 ∧
      t.portWord 0x0000 = 0x53434501#32 ∧ (∀ a, t.byteAt a = Config.freeByte s.draws a) ∧ t.events = rest

/-- The invariant holds right after reset. -/
def Obligations.ResetMeetsInvariant : Prop := Inv State.reset

/-- Every step keeps the invariant: memory stays in canonical form and lists assigned cells only (spec/20_memory.md R54),
`BUSY` and `DONE` are never both 1 (spec/10_state.md R25), the halted engine is busy with nothing but CLRERR
(spec/60_exceptions.md R134), `MATCH` stays in `0 .. 1024` (spec/10_state.md R30). -/
def Obligations.StepKeepsInvariant : Prop :=
  ∀ s t : State, Inv s → step s = .next t → Inv t

/-- A step is refused never, and faults exactly on a host access outside the window (spec/20_memory.md R50: an access of
any offset in the window always succeeds; that an access outside stops the model is log entry 10). -/
def Obligations.StepStopsOnlyOutsideTheWindow : Prop :=
  (∀ (s : State) (r : Refusal), step s ≠ .refused r) ∧
  (∀ (s : State) (f : Fault), step s = .fault f ↔
    ∃ off rest, Config.windowSize ≤ off ∧
      (s.events = .read off :: rest ∨ ∃ v, s.events = .write off v :: rest))

/-- spec/70_reset_and_hazards.md R160, eventual completion: once the host has done what it still does, one more step
leaves the engine idle; and, if no reset input abandons it (R150), a command that was running, or that the host offers to
an engine that is not halted, has completed: `DONE = 1`. The step the idle host leaves to the engine is log entry 1. -/
def Obligations.EveryAcceptedCommandCompletes : Prop :=
  ∀ s : State, InWindow s.events →
    ∃ t : State, Host.Core.run Sys2Proof.core (s.events.length + 1) s = .next t ∧ t.busy = false ∧ t.events = [] ∧
      (Event.reset ∉ s.events →
        s.busy = true ∨ s.done = true ∨ (s.err = .noError ∧ ∃ w, Event.write 0x0001 w ∈ s.events) → t.done = true)

/-- A step runs the decoded command (spec/40_control.md R86): a busy engine whose turn it is executes the command that
`CUR` decodes to. That a step is the engine's turn also when the host has nothing more to do (the first clause) is the
model's choice, log entry 1. -/
def Obligations.StepRunsTheDecodedCommand : Prop :=
  ∀ (s : State) (i : Instr), s.busy = true → decode s.cur = .ok i →
    (s.events = [] → step s = exec i s) ∧
    (∀ rest, s.events = .engine :: rest → step s = exec i { s with events := rest })

/-- spec/40_control.md R85, R86: a command offered to an idle engine that is not halted is accepted, and the engine's turn
executes it; CLRERR is accepted in the halted state too. -/
def Obligations.OfferedCommandIsExecuted : Prop :=
  ∀ (s : State) (i : Instr), s.busy = false → (s.err = .noError ∨ i = .clrerr) →
    s.events = [.write 0x0001 (encode i), .engine] →
    Host.Core.run Sys2Proof.core 2 s =
      exec i { s with events := [], cur := encode i, busy := true, done := false }

/-- spec/40_control.md R87 check 1, spec/30_encoding.md R73: an illegal word raises `ERR_CMD` at its completion and
changes nothing else. -/
def Obligations.IllegalCommandRaisesErrCmd : Prop :=
  ∀ (s : State) (e : DecodeError) (rest : List Event),
    s.busy = true → decode s.cur = .error e → s.events = .engine :: rest →
    step s = .next { s with events := rest, err := .cmd, busy := false, done := true }

/-! ## Checks and errors -/

/-- spec/40_control.md R87 check 2, spec/60_exceptions.md R136: with an illegal `LEN`, whatever `STEP` and `QMODE` hold,
each of the eight commands raises `ERR_LEN` and changes nothing but `STATUS`. -/
def Obligations.IllegalLenRaisesErrLen : Prop :=
  ∀ (i : Instr) (s : State), usesLen i = true →
    ¬(s.len.toNat % 2 = 0 ∧ 2 ≤ s.len.toNat ∧ s.len.toNat ≤ 1024) →
    exec i s = .next { s with err := .len, busy := false, done := true }

/-- spec/40_control.md R87 check 3: with a legal `LEN`, `STEP = 0` in a command that uses it, or `QMODE = 3` in UNPACK or
DECODE, raises `ERR_CFG` and changes nothing but `STATUS`. -/
def Obligations.IllegalConfigRaisesErrCfg : Prop :=
  ∀ (i : Instr) (s : State), s.len.toNat % 2 = 0 → 2 ≤ s.len.toNat → s.len.toNat ≤ 1024 →
    (usesStep i = true ∧ s.stepSize = 0#16) ∨ (usesMode i = true ∧ s.qmode = 3#2) →
    exec i s = .next { s with err := .cfg, busy := false, done := true }

/-- spec/40_control.md R87: SYM, IFFT and FFT do not use `STEP` or `QMODE`: with other values there they do the same. After
`ERR_VOD` the destinations are unspecified (spec/60_exceptions.md R133); that they agree here too is the model's choice,
the two runs taking the same draw (log entry 5). -/
def Obligations.TransformsIgnoreStepAndMode : Prop :=
  ∀ (i : Instr) (s : State) (st : BitVec 16) (q : BitVec 2), i = .sym ∨ i = .ifft ∨ (∃ r, i = .fft r) →
    ∃ t, exec i s = .next t ∧ exec i { s with stepSize := st, qmode := q } = .next { t with stepSize := st, qmode := q }

/-- spec/60_exceptions.md R131, R133: `ERR_VOD` of IFFT, FFT, DECODE and VERIFY is taken when some result does not fit:
`ERR <- 4`, `BUSY <- 0`, `DONE <- 1`; the registers, `MATCH` too, are unchanged. (Which cells may change is
`CommandsWriteOnlyTheirCells`; ENCODE never gets here, `EncodeNeverOverflows`.) -/
def Obligations.OverflowRaisesErrVod : Prop :=
  ∀ s : State, s.lenLegal = true →
    ((∃ n, n < s.lenN ∧ (inverseCell s.lenN (spectrumOf s) (tableOf s) n).fits = false) →
      ∃ t, exec .ifft s = .next t ∧ CompletedWith s t .vod ∧ ConfigKept s t ∧ t.matchCount = s.matchCount) ∧
    (∀ r, (∃ j, j < s.lenN ∧ (forwardCell s.lenN (fftInput r s) (tableOf s) j).fits = false) →
      ∃ t, exec (.fft r) s = .next t ∧ CompletedWith s t .vod ∧ ConfigKept s t ∧ t.matchCount = s.matchCount) ∧
    (s.stepSize ≠ 0#16 →
      (∃ j, j < s.lenN ∧ (forwardCell s.lenN (realSamplesOf s) (tableOf s) j).fits = false) →
      (∃ t, exec .verify s = .next t ∧ CompletedWith s t .vod ∧ ConfigKept s t ∧ t.matchCount = s.matchCount) ∧
      (s.qmode ≠ 3#2 →
        ∃ t, exec .decode s = .next t ∧ CompletedWith s t .vod ∧ ConfigKept s t ∧ t.matchCount = s.matchCount))

/-- spec/60_exceptions.md R135: the only ways out of the halted state are the reset input and the completion of CLRERR, and
while halted the code is not replaced by another. The second clause needs the invariant: only then is a halted engine
busy with nothing but CLRERR (R134). -/
def Obligations.HaltedLeftOnlyByClrerrOrReset : Prop :=
  ∀ s t : State, s.err ≠ .noError → step s = .next t →
    (t.err = .noError →
      (∃ rest, s.events = .reset :: rest) ∨
      (s.busy = true ∧ s.cur = 0x00000009#32 ∧ (s.events = [] ∨ ∃ rest, s.events = .engine :: rest))) ∧
    (Inv s → t.err = s.err ∨ t.err = .noError)

/-- spec/10_state.md R30: nothing but a VERIFY that completes without error, or the reset input, changes `MATCH`. -/
def Obligations.OnlyVerifyWritesMatch : Prop :=
  ∀ s t : State, step s = .next t → t.matchCount ≠ s.matchCount →
    (∃ rest, s.events = .reset :: rest) ∨
    (s.busy = true ∧ s.cur = 0x00000008#32 ∧ t.err = s.err ∧ (s.events = [] ∨ ∃ rest, s.events = .engine :: rest))

/-! ## What commands leave alone -/

/-- The registers: every command ends with `BUSY = 0`, `DONE = 1`, writes no configuration register, leaves `MATCH` unless
it is VERIFY and `REJ` unless it is CLRERR; NOP leaves `ERR` (spec/40_control.md R86, R88, R89 and the "writes" of every
command's rule). That `CUR` keeps its word, a part of `ConfigKept`, is the model's choice: the spec leaves its value after a
completion open (log entry 7). -/
def Obligations.CommandsKeepTheRegisters : Prop :=
  ∀ (i : Instr) (s t : State), exec i s = .next t →
    t.busy = false ∧ t.done = true ∧ ConfigKept s t ∧ (i ≠ .verify → t.matchCount = s.matchCount) ∧
    (i ≠ .clrerr → t.rej = s.rej ∧ (t.err = s.err ∨ t.err = .len ∨ t.err = .cfg ∨ t.err = .vod)) ∧
    (i = .nop → t.err = s.err)

/-- The memories: whatever the outcome, a command changes no byte outside the cells its rule lists under "writes". -/
def Obligations.CommandsWriteOnlyTheirCells : Prop :=
  ∀ (i : Instr) (s t : State) (a : Nat), exec i s = .next t → ¬Writes i s a → t.byteAt a = s.byteAt a

/-! ## The commands -/

/-- spec/40_control.md R88: NOP changes `BUSY` and `DONE` only, whatever the registers hold. -/
def Obligations.NopCompletes : Prop :=
  encode .nop = 0x00000000#32 ∧ ∀ s : State, exec .nop s = .next { s with busy := false, done := true }

/-- spec/40_control.md R89: CLRERR clears `ERR` and `REJ` and changes nothing else but `BUSY` and `DONE`. -/
def Obligations.ClrerrClearsErrAndRej : Prop :=
  encode .clrerr = 0x00000009#32 ∧
  ∀ s : State, exec .clrerr s = .next { s with err := .noError, rej := false, busy := false, done := true }

/-- spec/41_pack.md R91: PACK assembles the head spectrum; with a legal `LEN` and `STEP > 0` it completes without error,
and changes no cell outside the head. -/
def Obligations.PackAssemblesTheHead : Prop :=
  ∀ s : State, s.lenLegal = true → s.stepSize ≠ 0#16 →
    ∃ t, exec .pack s = .next t ∧ CompletedOk s t ∧ ConfigKept s t ∧ t.matchCount = s.matchCount ∧
      t.cell .sr 0 = s.sent.toInt ∧ t.cell .si 0 = 0 ∧
      (∀ j, 1 ≤ j → j ≤ s.lenK →
        t.cell .sr j = (s.bb (j - 1)).toNat * s.stepSize.toNat ∧
        t.cell .si j = (s.bb (s.lenK + j - 1)).toNat * s.stepSize.toNat) ∧
      t.cell .sr (s.lenK + 1) = 0 ∧ t.cell .si (s.lenK + 1) = 0 ∧
      (∀ a, ¬Writes .pack s a → t.byteAt a = s.byteAt a)

/-- spec/42_symmetry.md R95: SYM writes the conjugate of bin `j` at bin `N - j` for `j = 1 .. k`, when every negation
fits; when one does not, it raises `ERR_VOD` and has written nothing. -/
def Obligations.SymMirrorsTheInterior : Prop :=
  ∀ s : State, s.lenLegal = true →
    ((∀ j, 1 ≤ j → j ≤ s.lenK → s.cell .si j ≠ -2 ^ 31) →
      ∃ t, exec .sym s = .next t ∧ CompletedOk s t ∧ ConfigKept s t ∧ t.matchCount = s.matchCount ∧
        (∀ j, 1 ≤ j → j ≤ s.lenK →
          t.cell .sr (s.lenN - j) = s.cell .sr j ∧ t.cell .si (s.lenN - j) = -s.cell .si j) ∧
        (∀ a, ¬Writes .sym s a → t.byteAt a = s.byteAt a)) ∧
    ((∃ j, 1 ≤ j ∧ j ≤ s.lenK ∧ s.cell .si j = -2 ^ 31) →
      exec .sym s = .next { s with err := .vod, busy := false, done := true })

/-- spec/43_transform.md R101: when every result fits, IFFT completes without error and sample `n` is the inverse
transform of the spectrum over the table. -/
def Obligations.IfftComputesTheInverse : Prop :=
  ∀ s : State, s.lenLegal = true →
    (∀ n, n < s.lenN → (inverseCell s.lenN (spectrumOf s) (tableOf s) n).fits = true) →
    ∃ t, exec .ifft s = .next t ∧ CompletedOk s t ∧ ConfigKept s t ∧ t.matchCount = s.matchCount ∧
      (∀ n, n < s.lenN → samplesOf t n = inverseCell s.lenN (spectrumOf s) (tableOf s) n) ∧
      (∀ a, ¬Writes .ifft s a → t.byteAt a = s.byteAt a)

/-- spec/43_transform.md R102: when every result fits, FFT completes without error and bin `j` is the forward transform of
the samples over the table, `AI` taken as 0 when `R = 1`. -/
def Obligations.FftComputesTheForward : Prop :=
  ∀ (s : State) (r : Bool), s.lenLegal = true →
    (∀ j, j < s.lenN → (forwardCell s.lenN (fftInput r s) (tableOf s) j).fits = true) →
    ∃ t, exec (.fft r) s = .next t ∧ CompletedOk s t ∧ ConfigKept s t ∧ t.matchCount = s.matchCount ∧
      (∀ j, j < s.lenN → spectrumOf t j = forwardCell s.lenN (fftInput r s) (tableOf s) j) ∧
      (∀ a, ¬Writes (.fft r) s a → t.byteAt a = s.byteAt a)

/-- spec/44_unpack.md R112: UNPACK stores the quantized real parts of bins `1 .. k`, then the imaginary parts, in every
legal mode. -/
def Obligations.UnpackQuantizesTheInterior : Prop :=
  ∀ (s : State) (m : QMode), s.lenLegal = true → s.stepSize ≠ 0#16 → SelectsMode s m →
    ∃ t, exec .unpack s = .next t ∧ CompletedOk s t ∧ ConfigKept s t ∧ t.matchCount = s.matchCount ∧
      (∀ j, 1 ≤ j → j ≤ s.lenK →
        t.bb (j - 1) = narrow m (rdiv (s.cell .sr j) s.stepSize.toNat) ∧
        t.bb (s.lenK + j - 1) = narrow m (rdiv (s.cell .si j) s.stepSize.toNat)) ∧
      (∀ a, ¬Writes .unpack s a → t.byteAt a = s.byteAt a)

/-- spec/45_composite.md R120: when every sample fits, ENCODE completes without error, the spectrum is the block's and the
samples are its inverse transform. -/
def Obligations.EncodeTransformsTheBlock : Prop :=
  ∀ s : State, s.lenLegal = true → s.stepSize ≠ 0#16 →
    (∀ n, n < s.lenN → (inverseCell s.lenN (blockSpectrum s) (tableOf s) n).fits = true) →
    ∃ t, exec .encode s = .next t ∧ CompletedOk s t ∧ ConfigKept s t ∧ t.matchCount = s.matchCount ∧
      (∀ j, j < s.lenN → spectrumOf t j = blockSpectrum s j) ∧
      (∀ n, n < s.lenN → samplesOf t n = inverseCell s.lenN (blockSpectrum s) (tableOf s) n) ∧
      (∀ a, ¬Writes .encode s a → t.byteAt a = s.byteAt a)

/-- What spec/45_composite.md R120 and the widths of spec/00_scope.md R5 say together: every sample of an encoded block
fits 32 bits, whatever the table and the sentinel, so ENCODE of a legal block always completes without error. (R120 allows
`ERR_VOD` from its IFFT part; no contents of the machine reach it.) -/
def Obligations.EncodeNeverOverflows : Prop :=
  ∀ s : State, s.lenLegal = true → s.stepSize ≠ 0#16 →
    (∀ n, n < s.lenN → (inverseCell s.lenN (blockSpectrum s) (tableOf s) n).fits = true) ∧
    ∃ t, exec .encode s = .next t ∧ CompletedOk s t

/-- spec/45_composite.md R122: when every bin fits, DECODE completes without error, the spectrum is the forward transform
of the real samples and `BB` the unpacked block. -/
def Obligations.DecodeRecoversTheBlock : Prop :=
  ∀ (s : State) (m : QMode), s.lenLegal = true → s.stepSize ≠ 0#16 → SelectsMode s m →
    (∀ j, j < s.lenN → (forwardCell s.lenN (realSamplesOf s) (tableOf s) j).fits = true) →
    ∃ t, exec .decode s = .next t ∧ CompletedOk s t ∧ ConfigKept s t ∧ t.matchCount = s.matchCount ∧
      (∀ j, j < s.lenN → spectrumOf t j = forwardCell s.lenN (realSamplesOf s) (tableOf s) j) ∧
      (∀ i, i < s.lenL →
        t.bb i = unpackedByte s m (forwardCell s.lenN (realSamplesOf s) (tableOf s)) i) ∧
      (∀ a, ¬Writes .decode s a → t.byteAt a = s.byteAt a)

/-- spec/45_composite.md R121: when every bin fits, VERIFY completes without error, whatever `QMODE` holds, and `MATCH` is
the number of positions at which the rounded, un-narrowed component equals the byte of `BB`. -/
def Obligations.VerifyCountsTheMatches : Prop :=
  ∀ s : State, s.lenLegal = true → s.stepSize ≠ 0#16 →
    (∀ j, j < s.lenN → (forwardCell s.lenN (realSamplesOf s) (tableOf s) j).fits = true) →
    ∃ t, exec .verify s = .next t ∧ CompletedOk s t ∧ ConfigKept s t ∧
      (∀ j, j < s.lenN → spectrumOf t j = forwardCell s.lenN (realSamplesOf s) (tableOf s) j) ∧
      t.matchCount.toNat =
        ((Finset.Icc 1 s.lenK).filter fun j => rdiv (t.cell .sr j) s.stepSize.toNat = (s.bb (j - 1)).toNat).card +
        ((Finset.Icc 1 s.lenK).filter fun j =>
          rdiv (t.cell .si j) s.stepSize.toNat = (s.bb (s.lenK + j - 1)).toNat).card ∧
      (∀ a, ¬Writes .verify s a → t.byteAt a = s.byteAt a)

/-- spec/45_composite.md R120: "The result equals that of `RUN PACK`, `RUN SYM`, `RUN IFFT` issued one after another with
nothing changed in between." -/
def Obligations.EncodeIsPackSymIfft : Prop :=
  ∀ s a b c : State, s.err = .noError → exec .pack s = .next a → exec .sym a = .next b → exec .ifft b = .next c →
    c.err = .noError → exec .encode s = .next c

/-- spec/45_composite.md R122: "The result equals that of `RUN FFT.R` then `RUN UNPACK`." -/
def Obligations.DecodeIsFftUnpack : Prop :=
  ∀ s a b : State, s.err = .noError → exec (.fft true) s = .next a → exec .unpack a = .next b →
    b.err = .noError → exec .decode s = .next b

/-! ## Properties of the codec -/

/-- spec/42_symmetry.md R95, R96: after PACK then SYM, which then cannot raise, the spectrum is Hermitian, with
`S[0] = (SENT, 0)` and `S[N/2] = (0, 0)`. -/
def Obligations.PackThenSymIsHermitian : Prop :=
  ∀ s : State, s.lenLegal = true → s.stepSize ≠ 0#16 →
    ∃ a b, exec .pack s = .next a ∧ exec .sym a = .next b ∧ b.err = s.err ∧ Hermitian b ∧
      spectrumOf b 0 = ⟨s.sent.toInt, 0⟩ ∧ spectrumOf b (s.lenN / 2) = ⟨0, 0⟩

/-- spec/43_transform.md R104: with a symmetric table, IFFT of a Hermitian spectrum writes `AI[n] = 0` for every `n`. -/
def Obligations.HermitianSpectrumGivesRealSamples : Prop :=
  ∀ s t : State, s.lenLegal = true → SymmetricTable s → Hermitian s → s.err = .noError →
    exec .ifft s = .next t → t.err = .noError → ∀ n, n < s.lenN → t.cell .ai n = 0

/-- spec/45_composite.md R120: after ENCODE the spectrum is Hermitian, and with a symmetric table `AI[n] = 0` for
all `n`. -/
def Obligations.EncodeGivesRealSamples : Prop :=
  ∀ s t : State, s.lenLegal = true → s.stepSize ≠ 0#16 → s.err = .noError →
    exec .encode s = .next t → t.err = .noError →
    Hermitian t ∧ (SymmetricTable s → ∀ n, n < s.lenN → t.cell .ai n = 0)

/-- spec/43_transform.md R105: with the standard table and a Hermitian spectrum of components bounded by `M <= 2^30`, IFFT
then FFT with `R = 1` raises nothing and returns every component within `E(N, M)`. -/
def Obligations.InverseThenForwardWithinBound : Prop :=
  ∀ (s : State) (M : Int), s.lenLegal = true → s.err = .noError → HoldsStandardTable s → Hermitian s →
    (∀ j, j < s.lenN → |s.cell .sr j| + |s.cell .si j| ≤ M) → M ≤ 2 ^ 30 →
    ∃ t u, exec .ifft s = .next t ∧ t.err = .noError ∧ exec (.fft true) t = .next u ∧ u.err = .noError ∧
      ∀ j, j < s.lenN →
        |(u.cell .sr j : ℚ) - s.cell .sr j| ≤ errorBound s.lenN M ∧
        |(u.cell .si j : ℚ) - s.cell .si j| ≤ errorBound s.lenN M

/-- spec/45_composite.md R123, the round trip: under its premises ENCODE then DECODE raises nothing and gives back the
block (clipped at 127 in `SAT_S8`), and VERIFY after ENCODE gives `MATCH = LEN`. -/
def Obligations.EncodeThenDecodeReturnsTheBlock : Prop :=
  ∀ (s : State) (m : QMode), s.lenLegal = true → s.err = .noError → HoldsStandardTable s → SelectsMode s m →
    |s.sent.toInt| ≤ 510 * s.stepSize.toNat →
    (s.stepSize.toNat : ℚ) > 2 * errorBound s.lenN (510 * s.stepSize.toNat) →
    ∃ t u v, exec .encode s = .next t ∧ t.err = .noError ∧ exec .decode t = .next u ∧ u.err = .noError ∧
      exec .verify t = .next v ∧ v.err = .noError ∧ v.matchCount.toNat = s.lenL ∧
      ∀ i, i < s.lenL → (u.bb i).toNat = if m = .satS8 then min (s.bb i).toNat 127 else (s.bb i).toNat

/-- spec/45_composite.md R124 AS ITS TEXT STANDS, "any `SENT`": the zero block is encoded to the constant
`rdiv(SENT, 1026)` and decoded to zero bytes. It fails: for a `SENT` near `2^31` bin 0 of the forward transform,
`1026 * rdiv(SENT, 1026)`, does not fit 32 bits, and DECODE raises `ERR_VOD` (R102). -/
def Obligations.ZeroBlockForAnySentinel : Prop :=
  ∀ (s : State) (m : QMode), s.len = 1024#11 → s.err = .noError → HoldsStandardTable s → SelectsMode s m →
    3 ≤ s.stepSize.toNat → (∀ i, i < 1024 → s.bb i = 0#8) →
    ∃ t u, exec .encode s = .next t ∧ t.err = .noError ∧
      (∀ n, n < 1026 → t.cell .ar n = rdiv s.sent.toInt 1026 ∧ t.cell .ai n = 0) ∧
      exec .decode t = .next u ∧ u.err = .noError ∧ ∀ i, i < 1024 → u.bb i = 0#8

/-- spec/45_composite.md R124 for the sentinels for which bin 0 fits, `-2147483151 <= SENT <= 2147483150`: the zero block
is encoded to the constant `rdiv(SENT, 1026)` and decoded to zero bytes without error. For every other sentinel ENCODE is
the same and DECODE raises `ERR_VOD` (spec/43_transform.md R102; that R102 goes before R124 there is log entry 16). -/
def Obligations.ZeroBlockForModerateSentinel : Prop :=
  ∀ (s : State) (m : QMode), s.len = 1024#11 → s.err = .noError → HoldsStandardTable s → SelectsMode s m →
    3 ≤ s.stepSize.toNat → (∀ i, i < 1024 → s.bb i = 0#8) →
    ∃ t u, exec .encode s = .next t ∧ t.err = .noError ∧
      (∀ n, n < 1026 → t.cell .ar n = rdiv s.sent.toInt 1026 ∧ t.cell .ai n = 0) ∧
      exec .decode t = .next u ∧
      (-2147483151 ≤ s.sent.toInt ∧ s.sent.toInt ≤ 2147483150 →
        u.err = .noError ∧ ∀ i, i < 1024 → u.bb i = 0#8) ∧
      (s.sent.toInt < -2147483151 ∨ 2147483150 < s.sent.toInt → u.err = .vod)

/-- spec/43_transform.md R101: IFFT cannot raise `ERR_VOD` when every table entry has
`|TWR[m]| + |TWI[m]| <= 2^30 * 1.5` and every bin has `|SR[j]| + |SI[j]| <= 2^30`. -/
def Obligations.IfftCannotOverflowOnBoundedData : Prop :=
  ∀ s t : State, s.lenLegal = true → s.err = .noError →
    (∀ m, m < s.lenN → 2 * (|s.cell .twr m| + |s.cell .twi m|) ≤ 3 * 2 ^ 30) →
    (∀ j, j < s.lenN → |s.cell .sr j| + |s.cell .si j| ≤ 2 ^ 30) →
    exec .ifft s = .next t → t.err = .noError

/-- spec/43_transform.md R102: FFT cannot raise `ERR_VOD` when
`sum_n (|AR[n]| + |a_n|) * max_m(|TWR[m]|, |TWI[m]|) <= 2^60`. -/
def Obligations.FftCannotOverflowOnBoundedData : Prop :=
  ∀ (s t : State) (r : Bool) (M : Int), s.lenLegal = true → s.err = .noError →
    (∀ m, m < s.lenN → |s.cell .twr m| ≤ M ∧ |s.cell .twi m| ≤ M) →
    (∑ n ∈ Finset.range s.lenN, (|(fftInput r s n).re| + |(fftInput r s n).im|)) * M ≤ 2 ^ 60 →
    exec (.fft r) s = .next t → t.err = .noError

/-- spec/43_transform.md R100: the table entries `N .. 1025` are not read: two machines that agree on `LEN`, on the input
cells below `N` and on the table below `N` get the same outcome and the same results. -/
def Obligations.TransformsReadOnlyBelowN : Prop :=
  ∀ s s' t t' : State, s'.len = s.len → s.err = .noError → s'.err = .noError →
    (∀ m, m < s.lenN → tableOf s' m = tableOf s m) →
    ((∀ j, j < s.lenN → spectrumOf s' j = spectrumOf s j) →
      exec .ifft s = .next t → exec .ifft s' = .next t' →
      t'.err = t.err ∧ (s.lenLegal = true → t.err = .noError → ∀ n, n < s.lenN → samplesOf t' n = samplesOf t n)) ∧
    ((∀ n, n < s.lenN → samplesOf s' n = samplesOf s n) →
      exec (.fft false) s = .next t → exec (.fft false) s' = .next t' →
      t'.err = t.err ∧ (s.lenLegal = true → t.err = .noError → ∀ j, j < s.lenN → spectrumOf t' j = spectrumOf t j))

/-- spec/30_encoding.md R72: with `R = 1` FFT does not read `AI`, and DECODE and VERIFY behave so too: machines that agree
on all but `AI` get the same outcome, the same spectrum, the same block and the same `MATCH`. -/
def Obligations.RealTransformIgnoresImaginarySamples : Prop :=
  ∀ (s s' t t' : State) (i : Instr), i = .fft true ∨ i = .decode ∨ i = .verify →
    s'.len = s.len → s'.stepSize = s.stepSize → s'.qmode = s.qmode → s'.matchCount = s.matchCount →
    s.err = .noError → s'.err = .noError →
    (∀ m, m < s.lenN → tableOf s' m = tableOf s m) → (∀ n, n < s.lenN → s'.cell .ar n = s.cell .ar n) →
    (∀ b, b < s.lenL → s'.bb b = s.bb b) →
    exec i s = .next t → exec i s' = .next t' →
    t'.err = t.err ∧ t'.matchCount = t.matchCount ∧
    (t.err = .noError →
      (∀ j, j < s.lenN → spectrumOf t' j = spectrumOf t j) ∧ (∀ b, b < s.lenL → t'.bb b = t.bb b))

/-! ## Arithmetic -/

/-- spec/00_scope.md R8: `rdiv(a, d) = floor((2*a + d) / (2*d))`, and `rdiv(a, d) = q` if and only if
`2*d*q - d <= 2*a < 2*d*q + d`. -/
def Obligations.RdivIsTheNearestInteger : Prop :=
  ∀ a d : Int, 0 < d →
    rdiv a d = ⌊((2 * a + d : Int) : ℚ) / ((2 * d : Int) : ℚ)⌋ ∧
    ∀ q : Int, rdiv a d = q ↔ 2 * d * q - d ≤ 2 * a ∧ 2 * a < 2 * d * q + d

/-- spec/41_pack.md R90, spec/44_unpack.md R110: `rq(deq(b)) = b` for every byte; and `rq(v) = b` exactly when
`b*STEP - STEP/2 <= v < b*STEP + STEP/2` (as rationals, here both sides doubled). -/
def Obligations.QuantizerInvertsTheDequantizer : Prop :=
  ∀ s : State, s.stepSize ≠ 0#16 →
    (∀ b : Byte, s.deq b = b.toNat * s.stepSize.toNat ∧ 0 ≤ s.deq b ∧ s.deq b ≤ 16711425 ∧
      s.rq (s.deq b) = b.toNat) ∧
    (∀ v : Int, s.rq v = rdiv v s.stepSize.toNat ∧ (in32 v = true → |s.rq v| ≤ 2 ^ 31) ∧
      ∀ b : Int, s.rq v = b ↔
        2 * b * s.stepSize.toNat - s.stepSize.toNat ≤ 2 * v ∧ 2 * v < 2 * b * s.stepSize.toNat + s.stepSize.toNat)

/-- spec/44_unpack.md R111, spec/10_state.md R26: which mode each value of `CTRL.QMODE` selects, and the value its stored
pattern stands for; 3 selects none; for `0 <= r <= 127` all three modes store `r`. -/
def Obligations.NarrowingStandsForItsTable : Prop :=
  ∀ (s : State) (r : Int),
    (s.qmode = 0#2 → s.narrowing = some .satS8 ∧ (narrow .satS8 r).toInt = min 127 (max (-128) r)) ∧
    (s.qmode = 1#2 → s.narrowing = some .wrapS8 ∧ ((narrow .wrapS8 r).toNat : Int) = r % 256 ∧
      (narrow .wrapS8 r).toInt = Int.bmod r 256) ∧
    (s.qmode = 2#2 → s.narrowing = some .satU8 ∧ ((narrow .satU8 r).toNat : Int) = min 255 (max 0 r)) ∧
    (s.qmode = 3#2 → s.narrowing = none) ∧
    (0 ≤ r → r ≤ 127 → ∀ m, ((narrow m r).toNat : Int) = r)

/-- spec/00_scope.md R9: every component of a sum of the transforms has magnitude below `2^74`. -/
def Obligations.TransformSumsFitTheAccumulator : Prop :=
  ∀ (s : State) (n : Nat) (r : Bool) (index : Nat → Nat), n ≤ 1026 →
    |sumRe n (spectrumOf s) (tableOf s) index| < 2 ^ 74 ∧ |sumIm n (spectrumOf s) (tableOf s) index| < 2 ^ 74 ∧
    |sumRe n (fftInput r s) (tableOf s) index| < 2 ^ 74 ∧ |sumIm n (fftInput r s) (tableOf s) index| < 2 ^ 74

/-! ## The host port -/

/-- spec/10_state.md R22 to R30: on an idle engine a write to a read-write register is read back in the implemented bits,
the other registers and the memories keeping their values, and a write to a read-only register is ignored, silently. -/
def Obligations.RegistersReadBackImplementedBits : Prop :=
  ∀ (s : State) (off : Nat) (v : Word) (rest : List Event), s.busy = false → s.events = .write off v :: rest →
    (0x0003 ≤ off → off ≤ 0x0006 →
      ∃ t, step s = .next t ∧ t.events = rest ∧
        t.portWord off =
          (if off = 0x0003 then v &&& 0x00000003#32 else if off = 0x0004 then v &&& 0x000007FF#32
            else if off = 0x0005 then v &&& 0x0000FFFF#32 else v) ∧
        ∀ o, o ≠ off → t.portWord o = s.portWord o) ∧
    (off = 0x0000 ∨ off = 0x0002 ∨ off = 0x0007 → step s = .next { s with events := rest })

/-- spec/20_memory.md R51, R55: the words at `0x0800 + m`, `0x1000 + m`, `0x1800 + m`, `0x2000 + m`, `0x2800 + m`,
`0x3000 + m`, `m < 1026`, are the entries of `TWR`, `TWI`, `SR`, `SI`, `AR`, `AI`: such a word is `enc_32` of the entry, and
a write of `v` to it on an idle engine stores `sint_32(v)`. A write to any assigned word of a data memory is read back whole,
and every other word of the window keeps its value. -/
def Obligations.MemoryWordsReadBack : Prop :=
  (∀ (s : State) (r : Region) (base m : Nat), m < 1026 →
    (r, base) ∈ [(Region.twr, 0x0800), (.twi, 0x1000), (.sr, 0x1800), (.si, 0x2000), (.ar, 0x2800), (.ai, 0x3000)] →
    s.portWord (base + m) = enc32 (s.cell r m) ∧
    ∀ (v : Word) (rest : List Event), s.busy = false → s.events = .write (base + m) v :: rest →
      ∃ t, step s = .next t ∧ t.cell r m = v.toInt) ∧
  ∀ (s : State) (off : Nat) (v : Word) (rest : List Event), s.busy = false → memoryOffset off = true →
    s.events = .write off v :: rest →
    ∃ t, step s = .next t ∧ t.events = rest ∧ t.portWord off = v ∧ ∀ o, o ≠ off → t.portWord o = s.portWord o

/-- spec/20_memory.md R52: the word at `0x0400 + w` is the four bytes `BB[4w] .. BB[4w+3]`, little-endian, when it is read
and when it is written. -/
def Obligations.BlockWordsAreLittleEndian : Prop :=
  ∀ (s : State) (w : Nat) (v : Word) (rest : List Event), w < 256 → s.busy = false →
    (s.portWord (0x0400 + w)).toNat =
      (s.bb (4 * w)).toNat + 2 ^ 8 * (s.bb (4 * w + 1)).toNat + 2 ^ 16 * (s.bb (4 * w + 2)).toNat +
        2 ^ 24 * (s.bb (4 * w + 3)).toNat ∧
    (s.events = .write (0x0400 + w) v :: rest →
      ∃ t, step s = .next t ∧ ∀ b, b < 4 → t.bb (4 * w + b) = v.extractLsb' (8 * b) 8)

/-- spec/20_memory.md R54: an unassigned offset of the window reads 0 and ignores a write, with no flag, busy or not. -/
def Obligations.UnassignedOffsetsHoldNothing : Prop :=
  ∀ (s : State) (off : Nat) (v : Word) (rest : List Event), off < Config.windowSize → portCell off = .unassigned →
    (s.events = .read off :: rest →
      step s = .next { s with events := rest, replies := 0x00000000#32 :: s.replies }) ∧
    (s.events = .write off v :: rest → step s = .next { s with events := rest })

/-- spec/20_memory.md R51: which offsets of the window are unassigned. -/
def Obligations.UnassignedOffsetsOfTheMap : Prop :=
  ∀ off : Nat, off < Config.windowSize →
    (portCell off = .unassigned ↔
      (0x0008 ≤ off ∧ off ≤ 0x03FF) ∨ (0x0500 ≤ off ∧ off ≤ 0x07FF) ∨ 0x3800 ≤ off ∨
      (0x0800 ≤ off ∧ 1026 ≤ off % 2048))

/-- spec/20_memory.md R58, the busy gate: while `BUSY = 1` a write to `CMD`, `CTRL`, `LEN`, `STEP`, `SENT` or an assigned
memory word is rejected: nothing changes but `REJ <- 1`; a write to `ID`, `STATUS` or `MATCH` is ignored. -/
def Obligations.BusyGateRejectsWrites : Prop :=
  ∀ (s : State) (off : Nat) (v : Word) (rest : List Event), s.busy = true → s.events = .write off v :: rest →
    (off = 0x0001 ∨ (0x0003 ≤ off ∧ off ≤ 0x0006) ∨ memoryOffset off = true →
      step s = .next { s with events := rest, rej := true }) ∧
    (off = 0x0000 ∨ off = 0x0002 ∨ off = 0x0007 → step s = .next { s with events := rest })

/-- spec/20_memory.md R58: the running command executes on exactly the state that held when it was accepted: while busy no
host access changes anything but `REJ`, the host's own record and the counter of free values. -/
def Obligations.HostCannotDisturbARunningCommand : Prop :=
  ∀ (s t : State) (rest : List Event) (off : Nat) (v : Word), s.busy = true →
    s.events = .read off :: rest ∨ s.events = .write off v :: rest → step s = .next t →
    ∃ rj rp d, t = { s with events := rest, rej := rj, replies := rp, draws := d }

/-- spec/20_memory.md R59: while busy, a read of `ID`, `STATUS`, `CTRL`, `LEN`, `STEP`, `SENT` returns the current value
and `CMD` reads 0; a read of `MATCH` or of an assigned memory word returns a free word, a new draw each time. -/
def Obligations.ReadsWhileBusy : Prop :=
  ∀ (s : State) (off : Nat) (rest : List Event), s.busy = true → s.events = .read off :: rest →
    (off ≤ 0x0006 → step s = .next { s with events := rest, replies := s.portWord off :: s.replies }) ∧
    (off = 0x0001 → s.portWord off = 0x00000000#32) ∧
    (off = 0x0007 ∨ memoryOffset off = true →
      step s = .next
        { s with events := rest, replies := Config.freeWord s.draws :: s.replies, draws := s.draws + 1 })

/-- spec/20_memory.md R56: no read has a side effect: an idle engine's state is as before, the word read goes to the host,
and a second read of the same offset returns the same word. What the control registers read as, in every state:
spec/10_state.md R23 to R30. -/
def Obligations.IdleReadsHaveNoSideEffect : Prop :=
  (∀ s : State,
    s.portWord 0x0000 = 0x53434501#32 ∧ s.portWord 0x0001 = 0x00000000#32 ∧ s.portWord 0x0002 = s.statusWord ∧
    (s.portWord 0x0003).toNat = s.qmode.toNat ∧ (s.portWord 0x0004).toNat = s.len.toNat ∧
    (s.portWord 0x0005).toNat = s.stepSize.toNat ∧ s.portWord 0x0006 = s.sent ∧
    (s.portWord 0x0007).toNat = s.matchCount.toNat) ∧
  ∀ (s : State) (off : Nat) (rest : List Event), s.busy = false → off < Config.windowSize →
    s.events = .read off :: rest →
    step s = .next { s with events := rest, replies := s.portWord off :: s.replies } ∧
    ({ s with events := rest, replies := s.portWord off :: s.replies } : State).portWord off = s.portWord off

/-- spec/40_control.md R85: exactly one of rejected busy, rejected halted, accepted. -/
def Obligations.OfferIsAcceptedOrRejected : Prop :=
  ∀ (s : State) (w : Word) (rest : List Event), s.events = .write 0x0001 w :: rest →
    step s = .next
      (if s.busy = true then { s with events := rest, rej := true }
       else if s.err ≠ .noError ∧ w ≠ 0x00000009#32 then { s with events := rest, rej := true }
       else { s with events := rest, cur := w, busy := true, done := false })

/-- spec/10_state.md R25: the word at `0x0002` is `STATUS`, and where its fields stand. -/
def Obligations.StatusWordFields : Prop :=
  ∀ s : State,
    (s.portWord 0x0002).toNat =
      s.busy.toNat + 2 * s.done.toNat + 4 * s.rej.toNat +
        16 * (match s.err with | .noError => 0 | .cmd => 1 | .len => 2 | .cfg => 3 | .vod => 4)

/-! ## Host scripts and tables -/

/-- spec/30_encoding.md R76: the script line `LDB` loads the block: run on an idle machine it leaves the bytes in
`BB[0 .. n-1]` and changes no other byte of memory. -/
def Obligations.LdbLoadsTheBlock : Prop :=
  ∀ (s : State) (bs : List Byte), s.busy = false → bs.length % 4 = 0 → bs.length ≤ 1024 →
    s.events = scriptEvents [.ldb bs] →
    ∃ t, Host.Core.run Sys2Proof.core s.events.length s = .next t ∧
      (∀ i, i < bs.length → t.bb i = bs.getD i 0#8) ∧
      (∀ a, ¬inBlock bs.length a → t.byteAt a = s.byteAt a)

/-- spec/43_transform.md R103: the listed tables for `N = 6`, `8` and `12` are the standard ones. No command uses them, and
their numbers are marked in the spec as general knowledge (log entry 12). -/
def Obligations.ListedTablesAreStandard : Prop :=
  IsStandardTable standardTable6 ∧ IsStandardTable standardTable8 ∧ IsStandardTable standardTable12
end

