-- ==== Sys2Proof/Laws/Arith.lean ====
section
/-! SUPPORT. What the exact arithmetic does (spec/00_scope.md R8 to R10), and the transforms' list form as sums over cells
(spec/43_transform.md R101, R102). -/

namespace Sys2Proof.Machine

open Sys2Proof.Safety

/-- `rdiv(a, d)` is within half a unit of `a / d`, a tie going up (R8). -/
theorem rdiv_bounds {d : Int} (hd : 0 < d) (a : Int) :
    2 * d * rdiv a d - d ≤ 2 * a ∧ 2 * a < 2 * d * rdiv a d + d := by
  have h1 := Int.mul_ediv_self_le (x := 2 * a + d) (k := 2 * d) (by omega)
  have h2 := Int.lt_mul_ediv_self_add (x := 2 * a + d) (k := 2 * d) (by omega)
  unfold rdiv
  constructor <;> linarith

theorem in32_iff {v : Int} : in32 v = true ↔ -2 ^ 31 ≤ v ∧ v ≤ 2 ^ 31 - 1 := by simp [in32]

theorem cpx_fits_iff {x : Cpx} : x.fits = true ↔ in32 x.re = true ∧ in32 x.im = true := by simp [Cpx.fits]

/-- The components of a sum of products are the sums of the components (R9). -/
theorem cpxSum_cmul (n : Nat) (x t : Nat → Cpx) (index : Nat → Nat) :
    cpxSum n (fun i => cmul (x i) (t (index i))) = ⟨sumRe n x t index, sumIm n x t index⟩ := by
  induction n with
  | zero => rfl
  | succ n ih =>
    rw [cpxSum, ih]
    simp only [Cpx.add, cmul, sumRe, sumIm, Finset.sum_range_succ]

theorem sumRe_congr {n : Nat} {x x' t t' : Nat → Cpx} {index : Nat → Nat} (hx : ∀ i, i < n → x i = x' i)
    (ht : ∀ i, i < n → t (index i) = t' (index i)) : sumRe n x t index = sumRe n x' t' index :=
  Finset.sum_congr rfl fun i hi => by
    have hi := Finset.mem_range.1 hi
    rw [hx i hi, ht i hi]

theorem sumIm_congr {n : Nat} {x x' t t' : Nat → Cpx} {index : Nat → Nat} (hx : ∀ i, i < n → x i = x' i)
    (ht : ∀ i, i < n → t (index i) = t' (index i)) : sumIm n x t index = sumIm n x' t' index :=
  Finset.sum_congr rfl fun i hi => by
    have hi := Finset.mem_range.1 hi
    rw [hx i hi, ht i hi]

/-- An entry of a list built index by index. -/
theorem cpxAt_map_range {n i : Nat} (hi : i < n) (f : Nat → Cpx) : cpxAt ((List.range n).map f) i = f i := by
  simp [cpxAt, List.getD_eq_getElem?_getD, List.getElem?_map, List.getElem?_range hi]

theorem cpxAt_complexCells (s : State) (re im : Region) {n i : Nat} (hi : i < n) :
    cpxAt (s.complexCells re im n) i = ⟨s.cell re i, s.cell im i⟩ := cpxAt_map_range hi _

theorem cpxAt_table (s : State) {i : Nat} (hi : i < s.lenN) : cpxAt s.table i = tableOf s i :=
  cpxAt_complexCells s _ _ hi

theorem cpxAt_samples (s : State) (r : Bool) {i : Nat} (hi : i < s.lenN) : cpxAt (s.samples r) i = fftInput r s i := by
  cases r
  · exact cpxAt_complexCells s _ _ hi
  · exact cpxAt_map_range hi _

theorem lenN_pos (s : State) : 0 < s.lenN := Nat.succ_pos _

/-- The results of FFT are the forward transform of the samples over the table. -/
theorem forwardOutputs_eq (s : State) (r : Bool) :
    forwardOutputs s.lenN (s.samples r) s.table =
      (List.range s.lenN).map (forwardCell s.lenN (fftInput r s) (tableOf s)) := by
  refine List.map_congr_left fun j _ => ?_
  have hx : ∀ i, i < s.lenN → cpxAt (s.samples r) i = fftInput r s i := fun i hi => cpxAt_samples s r hi
  have ht : ∀ i, i < s.lenN → cpxAt s.table (j * i % s.lenN) = tableOf s (j * i % s.lenN) :=
    fun i _ => cpxAt_table s (Nat.mod_lt _ (lenN_pos s))
  simp only [transformAt, cpxSum_cmul, forwardCell, forwardIndex, sumRe_congr hx ht, sumIm_congr hx ht]

/-- The results of IFFT are the inverse transform of the spectrum over the table. -/
theorem inverseOutputs_eq (s : State) :
    inverseOutputs s.lenN (s.complexCells .sr .si s.lenN) s.table =
      (List.range s.lenN).map (inverseCell s.lenN (spectrumOf s) (tableOf s)) := by
  refine List.map_congr_left fun m _ => ?_
  have hx : ∀ i, i < s.lenN → cpxAt (s.complexCells .sr .si s.lenN) i = spectrumOf s i :=
    fun i hi => cpxAt_complexCells s _ _ hi
  have ht : ∀ i, i < s.lenN → cpxAt s.table ((s.lenN - i * m % s.lenN) % s.lenN) =
      tableOf s ((s.lenN - i * m % s.lenN) % s.lenN) := fun i _ => cpxAt_table s (Nat.mod_lt _ (lenN_pos s))
  simp only [transformAt, cpxSum_cmul, inverseCell, inverseIndex, sumRe_congr hx ht, sumIm_congr hx ht]

end Sys2Proof.Machine
end

