-- ==== Sys2Proof/Laws/State.lean ====
section
/-! SUPPORT. One lemma per field per update of the state, true by definition, so that no later proof unfolds a record
update. -/

namespace Sys2Proof.Machine

@[simp] theorem State.accept_mem (s : State) (w : Word) : (s.accept w).mem = s.mem := rfl
@[simp] theorem State.accept_busy (s : State) (w : Word) : (s.accept w).busy = true := rfl
@[simp] theorem State.accept_done (s : State) (w : Word) : (s.accept w).done = false := rfl
@[simp] theorem State.accept_rej (s : State) (w : Word) : (s.accept w).rej = s.rej := rfl
@[simp] theorem State.accept_err (s : State) (w : Word) : (s.accept w).err = s.err := rfl
@[simp] theorem State.accept_qmode (s : State) (w : Word) : (s.accept w).qmode = s.qmode := rfl
@[simp] theorem State.accept_len (s : State) (w : Word) : (s.accept w).len = s.len := rfl
@[simp] theorem State.accept_stepSize (s : State) (w : Word) : (s.accept w).stepSize = s.stepSize := rfl
@[simp] theorem State.accept_sent (s : State) (w : Word) : (s.accept w).sent = s.sent := rfl
@[simp] theorem State.accept_matchCount (s : State) (w : Word) : (s.accept w).matchCount = s.matchCount := rfl
@[simp] theorem State.accept_cur (s : State) (w : Word) : (s.accept w).cur = w := rfl
@[simp] theorem State.accept_events (s : State) (w : Word) : (s.accept w).events = s.events := rfl
@[simp] theorem State.accept_replies (s : State) (w : Word) : (s.accept w).replies = s.replies := rfl
@[simp] theorem State.accept_draws (s : State) (w : Word) : (s.accept w).draws = s.draws := rfl
@[simp] theorem State.accept_epoch (s : State) (w : Word) : (s.accept w).epoch = s.epoch := rfl

@[simp] theorem State.reject_mem (s : State) : (s.reject).mem = s.mem := rfl
@[simp] theorem State.reject_busy (s : State) : (s.reject).busy = s.busy := rfl
@[simp] theorem State.reject_done (s : State) : (s.reject).done = s.done := rfl
@[simp] theorem State.reject_rej (s : State) : (s.reject).rej = true := rfl
@[simp] theorem State.reject_err (s : State) : (s.reject).err = s.err := rfl
@[simp] theorem State.reject_qmode (s : State) : (s.reject).qmode = s.qmode := rfl
@[simp] theorem State.reject_len (s : State) : (s.reject).len = s.len := rfl
@[simp] theorem State.reject_stepSize (s : State) : (s.reject).stepSize = s.stepSize := rfl
@[simp] theorem State.reject_sent (s : State) : (s.reject).sent = s.sent := rfl
@[simp] theorem State.reject_matchCount (s : State) : (s.reject).matchCount = s.matchCount := rfl
@[simp] theorem State.reject_cur (s : State) : (s.reject).cur = s.cur := rfl
@[simp] theorem State.reject_events (s : State) : (s.reject).events = s.events := rfl
@[simp] theorem State.reject_replies (s : State) : (s.reject).replies = s.replies := rfl
@[simp] theorem State.reject_draws (s : State) : (s.reject).draws = s.draws := rfl
@[simp] theorem State.reject_epoch (s : State) : (s.reject).epoch = s.epoch := rfl

@[simp] theorem State.finish_mem (s : State) : (s.finish).mem = s.mem := rfl
@[simp] theorem State.finish_busy (s : State) : (s.finish).busy = false := rfl
@[simp] theorem State.finish_done (s : State) : (s.finish).done = true := rfl
@[simp] theorem State.finish_rej (s : State) : (s.finish).rej = s.rej := rfl
@[simp] theorem State.finish_err (s : State) : (s.finish).err = s.err := rfl
@[simp] theorem State.finish_qmode (s : State) : (s.finish).qmode = s.qmode := rfl
@[simp] theorem State.finish_len (s : State) : (s.finish).len = s.len := rfl
@[simp] theorem State.finish_stepSize (s : State) : (s.finish).stepSize = s.stepSize := rfl
@[simp] theorem State.finish_sent (s : State) : (s.finish).sent = s.sent := rfl
@[simp] theorem State.finish_matchCount (s : State) : (s.finish).matchCount = s.matchCount := rfl
@[simp] theorem State.finish_cur (s : State) : (s.finish).cur = s.cur := rfl
@[simp] theorem State.finish_events (s : State) : (s.finish).events = s.events := rfl
@[simp] theorem State.finish_replies (s : State) : (s.finish).replies = s.replies := rfl
@[simp] theorem State.finish_draws (s : State) : (s.finish).draws = s.draws := rfl
@[simp] theorem State.finish_epoch (s : State) : (s.finish).epoch = s.epoch := rfl

@[simp] theorem State.raise_mem (s : State) (e : ErrCode) : (s.raise e).mem = s.mem := rfl
@[simp] theorem State.raise_busy (s : State) (e : ErrCode) : (s.raise e).busy = false := rfl
@[simp] theorem State.raise_done (s : State) (e : ErrCode) : (s.raise e).done = true := rfl
@[simp] theorem State.raise_rej (s : State) (e : ErrCode) : (s.raise e).rej = s.rej := rfl
@[simp] theorem State.raise_err (s : State) (e : ErrCode) : (s.raise e).err = e := rfl
@[simp] theorem State.raise_qmode (s : State) (e : ErrCode) : (s.raise e).qmode = s.qmode := rfl
@[simp] theorem State.raise_len (s : State) (e : ErrCode) : (s.raise e).len = s.len := rfl
@[simp] theorem State.raise_stepSize (s : State) (e : ErrCode) : (s.raise e).stepSize = s.stepSize := rfl
@[simp] theorem State.raise_sent (s : State) (e : ErrCode) : (s.raise e).sent = s.sent := rfl
@[simp] theorem State.raise_matchCount (s : State) (e : ErrCode) : (s.raise e).matchCount = s.matchCount := rfl
@[simp] theorem State.raise_cur (s : State) (e : ErrCode) : (s.raise e).cur = s.cur := rfl
@[simp] theorem State.raise_events (s : State) (e : ErrCode) : (s.raise e).events = s.events := rfl
@[simp] theorem State.raise_replies (s : State) (e : ErrCode) : (s.raise e).replies = s.replies := rfl
@[simp] theorem State.raise_draws (s : State) (e : ErrCode) : (s.raise e).draws = s.draws := rfl
@[simp] theorem State.raise_epoch (s : State) (e : ErrCode) : (s.raise e).epoch = s.epoch := rfl

@[simp] theorem State.clearErrors_mem (s : State) : (s.clearErrors).mem = s.mem := rfl
@[simp] theorem State.clearErrors_busy (s : State) : (s.clearErrors).busy = s.busy := rfl
@[simp] theorem State.clearErrors_done (s : State) : (s.clearErrors).done = s.done := rfl
@[simp] theorem State.clearErrors_rej (s : State) : (s.clearErrors).rej = false := rfl
@[simp] theorem State.clearErrors_err (s : State) : (s.clearErrors).err = .noError := rfl
@[simp] theorem State.clearErrors_qmode (s : State) : (s.clearErrors).qmode = s.qmode := rfl
@[simp] theorem State.clearErrors_len (s : State) : (s.clearErrors).len = s.len := rfl
@[simp] theorem State.clearErrors_stepSize (s : State) : (s.clearErrors).stepSize = s.stepSize := rfl
@[simp] theorem State.clearErrors_sent (s : State) : (s.clearErrors).sent = s.sent := rfl
@[simp] theorem State.clearErrors_matchCount (s : State) : (s.clearErrors).matchCount = s.matchCount := rfl
@[simp] theorem State.clearErrors_cur (s : State) : (s.clearErrors).cur = s.cur := rfl
@[simp] theorem State.clearErrors_events (s : State) : (s.clearErrors).events = s.events := rfl
@[simp] theorem State.clearErrors_replies (s : State) : (s.clearErrors).replies = s.replies := rfl
@[simp] theorem State.clearErrors_draws (s : State) : (s.clearErrors).draws = s.draws := rfl
@[simp] theorem State.clearErrors_epoch (s : State) : (s.clearErrors).epoch = s.epoch := rfl

@[simp] theorem State.storeBytes_mem (s : State) (a : Nat) (vs : List Byte) : (s.storeBytes a vs).mem = s.mem.storeBytes a vs := rfl
@[simp] theorem State.storeBytes_busy (s : State) (a : Nat) (vs : List Byte) : (s.storeBytes a vs).busy = s.busy := rfl
@[simp] theorem State.storeBytes_done (s : State) (a : Nat) (vs : List Byte) : (s.storeBytes a vs).done = s.done := rfl
@[simp] theorem State.storeBytes_rej (s : State) (a : Nat) (vs : List Byte) : (s.storeBytes a vs).rej = s.rej := rfl
@[simp] theorem State.storeBytes_err (s : State) (a : Nat) (vs : List Byte) : (s.storeBytes a vs).err = s.err := rfl
@[simp] theorem State.storeBytes_qmode (s : State) (a : Nat) (vs : List Byte) : (s.storeBytes a vs).qmode = s.qmode := rfl
@[simp] theorem State.storeBytes_len (s : State) (a : Nat) (vs : List Byte) : (s.storeBytes a vs).len = s.len := rfl
@[simp] theorem State.storeBytes_stepSize (s : State) (a : Nat) (vs : List Byte) : (s.storeBytes a vs).stepSize = s.stepSize := rfl
@[simp] theorem State.storeBytes_sent (s : State) (a : Nat) (vs : List Byte) : (s.storeBytes a vs).sent = s.sent := rfl
@[simp] theorem State.storeBytes_matchCount (s : State) (a : Nat) (vs : List Byte) : (s.storeBytes a vs).matchCount = s.matchCount := rfl
@[simp] theorem State.storeBytes_cur (s : State) (a : Nat) (vs : List Byte) : (s.storeBytes a vs).cur = s.cur := rfl
@[simp] theorem State.storeBytes_events (s : State) (a : Nat) (vs : List Byte) : (s.storeBytes a vs).events = s.events := rfl
@[simp] theorem State.storeBytes_replies (s : State) (a : Nat) (vs : List Byte) : (s.storeBytes a vs).replies = s.replies := rfl
@[simp] theorem State.storeBytes_draws (s : State) (a : Nat) (vs : List Byte) : (s.storeBytes a vs).draws = s.draws := rfl
@[simp] theorem State.storeBytes_epoch (s : State) (a : Nat) (vs : List Byte) : (s.storeBytes a vs).epoch = s.epoch := rfl

@[simp] theorem State.storeWords_mem (s : State) (o : Nat) (ws : List Word) : (s.storeWords o ws).mem = s.mem.storeBytes (4 * o) (ws.flatMap wordBytes) := rfl
@[simp] theorem State.storeWords_busy (s : State) (o : Nat) (ws : List Word) : (s.storeWords o ws).busy = s.busy := rfl
@[simp] theorem State.storeWords_done (s : State) (o : Nat) (ws : List Word) : (s.storeWords o ws).done = s.done := rfl
@[simp] theorem State.storeWords_rej (s : State) (o : Nat) (ws : List Word) : (s.storeWords o ws).rej = s.rej := rfl
@[simp] theorem State.storeWords_err (s : State) (o : Nat) (ws : List Word) : (s.storeWords o ws).err = s.err := rfl
@[simp] theorem State.storeWords_qmode (s : State) (o : Nat) (ws : List Word) : (s.storeWords o ws).qmode = s.qmode := rfl
@[simp] theorem State.storeWords_len (s : State) (o : Nat) (ws : List Word) : (s.storeWords o ws).len = s.len := rfl
@[simp] theorem State.storeWords_stepSize (s : State) (o : Nat) (ws : List Word) : (s.storeWords o ws).stepSize = s.stepSize := rfl
@[simp] theorem State.storeWords_sent (s : State) (o : Nat) (ws : List Word) : (s.storeWords o ws).sent = s.sent := rfl
@[simp] theorem State.storeWords_matchCount (s : State) (o : Nat) (ws : List Word) : (s.storeWords o ws).matchCount = s.matchCount := rfl
@[simp] theorem State.storeWords_cur (s : State) (o : Nat) (ws : List Word) : (s.storeWords o ws).cur = s.cur := rfl
@[simp] theorem State.storeWords_events (s : State) (o : Nat) (ws : List Word) : (s.storeWords o ws).events = s.events := rfl
@[simp] theorem State.storeWords_replies (s : State) (o : Nat) (ws : List Word) : (s.storeWords o ws).replies = s.replies := rfl
@[simp] theorem State.storeWords_draws (s : State) (o : Nat) (ws : List Word) : (s.storeWords o ws).draws = s.draws := rfl
@[simp] theorem State.storeWords_epoch (s : State) (o : Nat) (ws : List Word) : (s.storeWords o ws).epoch = s.epoch := rfl

@[simp] theorem State.storeCells_busy (s : State) (r : Region) (lo : Nat) (vs : List Int) : (s.storeCells r lo vs).busy = s.busy := rfl
@[simp] theorem State.storeCells_done (s : State) (r : Region) (lo : Nat) (vs : List Int) : (s.storeCells r lo vs).done = s.done := rfl
@[simp] theorem State.storeCells_rej (s : State) (r : Region) (lo : Nat) (vs : List Int) : (s.storeCells r lo vs).rej = s.rej := rfl
@[simp] theorem State.storeCells_err (s : State) (r : Region) (lo : Nat) (vs : List Int) : (s.storeCells r lo vs).err = s.err := rfl
@[simp] theorem State.storeCells_qmode (s : State) (r : Region) (lo : Nat) (vs : List Int) : (s.storeCells r lo vs).qmode = s.qmode := rfl
@[simp] theorem State.storeCells_len (s : State) (r : Region) (lo : Nat) (vs : List Int) : (s.storeCells r lo vs).len = s.len := rfl
@[simp] theorem State.storeCells_stepSize (s : State) (r : Region) (lo : Nat) (vs : List Int) : (s.storeCells r lo vs).stepSize = s.stepSize := rfl
@[simp] theorem State.storeCells_sent (s : State) (r : Region) (lo : Nat) (vs : List Int) : (s.storeCells r lo vs).sent = s.sent := rfl
@[simp] theorem State.storeCells_matchCount (s : State) (r : Region) (lo : Nat) (vs : List Int) : (s.storeCells r lo vs).matchCount = s.matchCount := rfl
@[simp] theorem State.storeCells_cur (s : State) (r : Region) (lo : Nat) (vs : List Int) : (s.storeCells r lo vs).cur = s.cur := rfl
@[simp] theorem State.storeCells_events (s : State) (r : Region) (lo : Nat) (vs : List Int) : (s.storeCells r lo vs).events = s.events := rfl
@[simp] theorem State.storeCells_replies (s : State) (r : Region) (lo : Nat) (vs : List Int) : (s.storeCells r lo vs).replies = s.replies := rfl
@[simp] theorem State.storeCells_draws (s : State) (r : Region) (lo : Nat) (vs : List Int) : (s.storeCells r lo vs).draws = s.draws := rfl
@[simp] theorem State.storeCells_epoch (s : State) (r : Region) (lo : Nat) (vs : List Int) : (s.storeCells r lo vs).epoch = s.epoch := rfl

@[simp] theorem State.unspecify_mem (s : State) (rs : List (Nat × Nat)) : (s.unspecify rs).mem = s.mem.unspecify s.draws rs := rfl
@[simp] theorem State.unspecify_busy (s : State) (rs : List (Nat × Nat)) : (s.unspecify rs).busy = s.busy := rfl
@[simp] theorem State.unspecify_done (s : State) (rs : List (Nat × Nat)) : (s.unspecify rs).done = s.done := rfl
@[simp] theorem State.unspecify_rej (s : State) (rs : List (Nat × Nat)) : (s.unspecify rs).rej = s.rej := rfl
@[simp] theorem State.unspecify_err (s : State) (rs : List (Nat × Nat)) : (s.unspecify rs).err = s.err := rfl
@[simp] theorem State.unspecify_qmode (s : State) (rs : List (Nat × Nat)) : (s.unspecify rs).qmode = s.qmode := rfl
@[simp] theorem State.unspecify_len (s : State) (rs : List (Nat × Nat)) : (s.unspecify rs).len = s.len := rfl
@[simp] theorem State.unspecify_stepSize (s : State) (rs : List (Nat × Nat)) : (s.unspecify rs).stepSize = s.stepSize := rfl
@[simp] theorem State.unspecify_sent (s : State) (rs : List (Nat × Nat)) : (s.unspecify rs).sent = s.sent := rfl
@[simp] theorem State.unspecify_matchCount (s : State) (rs : List (Nat × Nat)) : (s.unspecify rs).matchCount = s.matchCount := rfl
@[simp] theorem State.unspecify_cur (s : State) (rs : List (Nat × Nat)) : (s.unspecify rs).cur = s.cur := rfl
@[simp] theorem State.unspecify_events (s : State) (rs : List (Nat × Nat)) : (s.unspecify rs).events = s.events := rfl
@[simp] theorem State.unspecify_replies (s : State) (rs : List (Nat × Nat)) : (s.unspecify rs).replies = s.replies := rfl
@[simp] theorem State.unspecify_draws (s : State) (rs : List (Nat × Nat)) : (s.unspecify rs).draws = s.draws + 1 := rfl
@[simp] theorem State.unspecify_epoch (s : State) (rs : List (Nat × Nat)) : (s.unspecify rs).epoch = s.epoch := rfl

@[simp] theorem packBody_busy (s : State) : (packBody s).busy = s.busy := rfl
@[simp] theorem packBody_done (s : State) : (packBody s).done = s.done := rfl
@[simp] theorem packBody_rej (s : State) : (packBody s).rej = s.rej := rfl
@[simp] theorem packBody_err (s : State) : (packBody s).err = s.err := rfl
@[simp] theorem packBody_qmode (s : State) : (packBody s).qmode = s.qmode := rfl
@[simp] theorem packBody_len (s : State) : (packBody s).len = s.len := rfl
@[simp] theorem packBody_stepSize (s : State) : (packBody s).stepSize = s.stepSize := rfl
@[simp] theorem packBody_sent (s : State) : (packBody s).sent = s.sent := rfl
@[simp] theorem packBody_matchCount (s : State) : (packBody s).matchCount = s.matchCount := rfl
@[simp] theorem packBody_cur (s : State) : (packBody s).cur = s.cur := rfl
@[simp] theorem packBody_events (s : State) : (packBody s).events = s.events := rfl
@[simp] theorem packBody_replies (s : State) : (packBody s).replies = s.replies := rfl
@[simp] theorem packBody_draws (s : State) : (packBody s).draws = s.draws := rfl
@[simp] theorem packBody_epoch (s : State) : (packBody s).epoch = s.epoch := rfl

@[simp] theorem unpackBody_busy (m : QMode) (s : State) : (unpackBody m s).busy = s.busy := rfl
@[simp] theorem unpackBody_done (m : QMode) (s : State) : (unpackBody m s).done = s.done := rfl
@[simp] theorem unpackBody_rej (m : QMode) (s : State) : (unpackBody m s).rej = s.rej := rfl
@[simp] theorem unpackBody_err (m : QMode) (s : State) : (unpackBody m s).err = s.err := rfl
@[simp] theorem unpackBody_qmode (m : QMode) (s : State) : (unpackBody m s).qmode = s.qmode := rfl
@[simp] theorem unpackBody_len (m : QMode) (s : State) : (unpackBody m s).len = s.len := rfl
@[simp] theorem unpackBody_stepSize (m : QMode) (s : State) : (unpackBody m s).stepSize = s.stepSize := rfl
@[simp] theorem unpackBody_sent (m : QMode) (s : State) : (unpackBody m s).sent = s.sent := rfl
@[simp] theorem unpackBody_matchCount (m : QMode) (s : State) : (unpackBody m s).matchCount = s.matchCount := rfl
@[simp] theorem unpackBody_cur (m : QMode) (s : State) : (unpackBody m s).cur = s.cur := rfl
@[simp] theorem unpackBody_events (m : QMode) (s : State) : (unpackBody m s).events = s.events := rfl
@[simp] theorem unpackBody_replies (m : QMode) (s : State) : (unpackBody m s).replies = s.replies := rfl
@[simp] theorem unpackBody_draws (m : QMode) (s : State) : (unpackBody m s).draws = s.draws := rfl
@[simp] theorem unpackBody_epoch (m : QMode) (s : State) : (unpackBody m s).epoch = s.epoch := rfl

@[simp] theorem State.setMatch_mem (s : State) (c : Nat) : (s.setMatch c).mem = s.mem := rfl
@[simp] theorem State.setMatch_busy (s : State) (c : Nat) : (s.setMatch c).busy = s.busy := rfl
@[simp] theorem State.setMatch_done (s : State) (c : Nat) : (s.setMatch c).done = s.done := rfl
@[simp] theorem State.setMatch_rej (s : State) (c : Nat) : (s.setMatch c).rej = s.rej := rfl
@[simp] theorem State.setMatch_err (s : State) (c : Nat) : (s.setMatch c).err = s.err := rfl
@[simp] theorem State.setMatch_qmode (s : State) (c : Nat) : (s.setMatch c).qmode = s.qmode := rfl
@[simp] theorem State.setMatch_len (s : State) (c : Nat) : (s.setMatch c).len = s.len := rfl
@[simp] theorem State.setMatch_stepSize (s : State) (c : Nat) : (s.setMatch c).stepSize = s.stepSize := rfl
@[simp] theorem State.setMatch_sent (s : State) (c : Nat) : (s.setMatch c).sent = s.sent := rfl
@[simp] theorem State.setMatch_matchCount (s : State) (c : Nat) : (s.setMatch c).matchCount = BitVec.ofNat 11 c := rfl
@[simp] theorem State.setMatch_cur (s : State) (c : Nat) : (s.setMatch c).cur = s.cur := rfl
@[simp] theorem State.setMatch_events (s : State) (c : Nat) : (s.setMatch c).events = s.events := rfl
@[simp] theorem State.setMatch_replies (s : State) (c : Nat) : (s.setMatch c).replies = s.replies := rfl
@[simp] theorem State.setMatch_draws (s : State) (c : Nat) : (s.setMatch c).draws = s.draws := rfl
@[simp] theorem State.setMatch_epoch (s : State) (c : Nat) : (s.setMatch c).epoch = s.epoch := rfl

@[simp] theorem State.reply_mem (s : State) (w : Word) : (s.reply w).mem = s.mem := rfl
@[simp] theorem State.reply_busy (s : State) (w : Word) : (s.reply w).busy = s.busy := rfl
@[simp] theorem State.reply_done (s : State) (w : Word) : (s.reply w).done = s.done := rfl
@[simp] theorem State.reply_rej (s : State) (w : Word) : (s.reply w).rej = s.rej := rfl
@[simp] theorem State.reply_err (s : State) (w : Word) : (s.reply w).err = s.err := rfl
@[simp] theorem State.reply_qmode (s : State) (w : Word) : (s.reply w).qmode = s.qmode := rfl
@[simp] theorem State.reply_len (s : State) (w : Word) : (s.reply w).len = s.len := rfl
@[simp] theorem State.reply_stepSize (s : State) (w : Word) : (s.reply w).stepSize = s.stepSize := rfl
@[simp] theorem State.reply_sent (s : State) (w : Word) : (s.reply w).sent = s.sent := rfl
@[simp] theorem State.reply_matchCount (s : State) (w : Word) : (s.reply w).matchCount = s.matchCount := rfl
@[simp] theorem State.reply_cur (s : State) (w : Word) : (s.reply w).cur = s.cur := rfl
@[simp] theorem State.reply_events (s : State) (w : Word) : (s.reply w).events = s.events := rfl
@[simp] theorem State.reply_replies (s : State) (w : Word) : (s.reply w).replies = w :: s.replies := rfl
@[simp] theorem State.reply_draws (s : State) (w : Word) : (s.reply w).draws = s.draws := rfl
@[simp] theorem State.reply_epoch (s : State) (w : Word) : (s.reply w).epoch = s.epoch := rfl

@[simp] theorem resetEvent_mem (s : State) : (resetEvent s).mem = [] := rfl
@[simp] theorem resetEvent_busy (s : State) : (resetEvent s).busy = false := rfl
@[simp] theorem resetEvent_done (s : State) : (resetEvent s).done = false := rfl
@[simp] theorem resetEvent_rej (s : State) : (resetEvent s).rej = false := rfl
@[simp] theorem resetEvent_err (s : State) : (resetEvent s).err = .noError := rfl
@[simp] theorem resetEvent_qmode (s : State) : (resetEvent s).qmode = 0#2 := rfl
@[simp] theorem resetEvent_len (s : State) : (resetEvent s).len = 0#11 := rfl
@[simp] theorem resetEvent_stepSize (s : State) : (resetEvent s).stepSize = 0#16 := rfl
@[simp] theorem resetEvent_sent (s : State) : (resetEvent s).sent = 0#32 := rfl
@[simp] theorem resetEvent_matchCount (s : State) : (resetEvent s).matchCount = 0#11 := rfl
@[simp] theorem resetEvent_events (s : State) : (resetEvent s).events = s.events := rfl
@[simp] theorem resetEvent_replies (s : State) : (resetEvent s).replies = s.replies := rfl
@[simp] theorem resetEvent_draws (s : State) : (resetEvent s).draws = s.draws + 1 := rfl
@[simp] theorem resetEvent_epoch (s : State) : (resetEvent s).epoch = s.draws := rfl

/-! The quantities derived from `LEN` (spec/10_state.md R38) after an update that keeps `LEN`. -/

@[simp] theorem State.finish_lenL (s : State) : (s.finish).lenL = s.lenL := rfl
@[simp] theorem State.finish_lenK (s : State) : (s.finish).lenK = s.lenK := rfl
@[simp] theorem State.finish_lenN (s : State) : (s.finish).lenN = s.lenN := rfl
@[simp] theorem State.finish_lenLegal (s : State) : (s.finish).lenLegal = s.lenLegal := rfl

@[simp] theorem State.raise_lenL (s : State) (e : ErrCode) : (s.raise e).lenL = s.lenL := rfl
@[simp] theorem State.raise_lenK (s : State) (e : ErrCode) : (s.raise e).lenK = s.lenK := rfl
@[simp] theorem State.raise_lenN (s : State) (e : ErrCode) : (s.raise e).lenN = s.lenN := rfl
@[simp] theorem State.raise_lenLegal (s : State) (e : ErrCode) : (s.raise e).lenLegal = s.lenLegal := rfl

@[simp] theorem State.storeBytes_lenL (s : State) (a : Nat) (vs : List Byte) : (s.storeBytes a vs).lenL = s.lenL := rfl
@[simp] theorem State.storeBytes_lenK (s : State) (a : Nat) (vs : List Byte) : (s.storeBytes a vs).lenK = s.lenK := rfl
@[simp] theorem State.storeBytes_lenN (s : State) (a : Nat) (vs : List Byte) : (s.storeBytes a vs).lenN = s.lenN := rfl
@[simp] theorem State.storeBytes_lenLegal (s : State) (a : Nat) (vs : List Byte) : (s.storeBytes a vs).lenLegal = s.lenLegal := rfl

@[simp] theorem State.storeCells_lenL (s : State) (r : Region) (lo : Nat) (vs : List Int) : (s.storeCells r lo vs).lenL = s.lenL := rfl
@[simp] theorem State.storeCells_lenK (s : State) (r : Region) (lo : Nat) (vs : List Int) : (s.storeCells r lo vs).lenK = s.lenK := rfl
@[simp] theorem State.storeCells_lenN (s : State) (r : Region) (lo : Nat) (vs : List Int) : (s.storeCells r lo vs).lenN = s.lenN := rfl
@[simp] theorem State.storeCells_lenLegal (s : State) (r : Region) (lo : Nat) (vs : List Int) : (s.storeCells r lo vs).lenLegal = s.lenLegal := rfl

@[simp] theorem State.unspecify_lenL (s : State) (rs : List (Nat × Nat)) : (s.unspecify rs).lenL = s.lenL := rfl
@[simp] theorem State.unspecify_lenK (s : State) (rs : List (Nat × Nat)) : (s.unspecify rs).lenK = s.lenK := rfl
@[simp] theorem State.unspecify_lenN (s : State) (rs : List (Nat × Nat)) : (s.unspecify rs).lenN = s.lenN := rfl
@[simp] theorem State.unspecify_lenLegal (s : State) (rs : List (Nat × Nat)) : (s.unspecify rs).lenLegal = s.lenLegal := rfl

@[simp] theorem packBody_lenL (s : State) : (packBody s).lenL = s.lenL := rfl
@[simp] theorem packBody_lenK (s : State) : (packBody s).lenK = s.lenK := rfl
@[simp] theorem packBody_lenN (s : State) : (packBody s).lenN = s.lenN := rfl
@[simp] theorem packBody_lenLegal (s : State) : (packBody s).lenLegal = s.lenLegal := rfl

@[simp] theorem State.setMatch_lenL (s : State) (c : Nat) : (s.setMatch c).lenL = s.lenL := rfl
@[simp] theorem State.setMatch_lenK (s : State) (c : Nat) : (s.setMatch c).lenK = s.lenK := rfl
@[simp] theorem State.setMatch_lenN (s : State) (c : Nat) : (s.setMatch c).lenN = s.lenN := rfl
@[simp] theorem State.setMatch_lenLegal (s : State) (c : Nat) : (s.setMatch c).lenLegal = s.lenLegal := rfl

end Sys2Proof.Machine
end

