-- ==== Sys2Proof/Laws/Memory.lean ====
section
/-! SUPPORT. What the memory operations do: a read after a write, the canonical form, and the bytes, words and cells a store
leaves alone. -/

namespace Sys2Proof.Machine

/-! ## Bytes -/

theorem Memory.lookup_insert (m : Memory) (a : Nat) (v : Byte) (b : Nat) :
    (m.insert a v).lookup b = if b = a then some v else m.lookup b := by
  induction m with
  | nil =>
    simp only [Memory.insert, Memory.lookup, @eq_comm _ a b]
  | cons c m ih =>
    obtain ⟨x, w⟩ := c
    simp only [Memory.insert]
    split
    · simp only [Memory.lookup, @eq_comm _ a b]
    · split
      · next h => subst h; simp only [Memory.lookup, @eq_comm _ a b]; split <;> rfl
      · next hne =>
        by_cases hx : x = b
        · subst hx; simp [Memory.lookup, Ne.symm hne]
        · simp [Memory.lookup, hx, ih]

/-- A store of consecutive bytes: inside, the byte stored; outside, what was there. -/
theorem Memory.lookup_storeBytes (m : Memory) (a : Nat) (vs : List Byte) (b : Nat) :
    (m.storeBytes a vs).lookup b = if a ≤ b ∧ b < a + vs.length then vs[b - a]? else m.lookup b := by
  induction vs generalizing m a with
  | nil => simp [Memory.storeBytes]
  | cons v vs ih =>
    rw [Memory.storeBytes, ih, Memory.lookup_insert]
    by_cases hb : b = a
    · subst hb; simp
    · by_cases h : a + 1 ≤ b ∧ b < a + 1 + vs.length
      · have h1 : b - a = (b - (a + 1)) + 1 := by omega
        have h2 : a ≤ b ∧ b < a + (v :: vs).length := by simp; omega
        rw [if_pos h, if_pos h2, h1, List.getElem?_cons_succ]
      · have h2 : ¬(a ≤ b ∧ b < a + (v :: vs).length) := by simp; omega
        rw [if_neg h, if_neg h2, if_neg hb]

theorem drawnBytes_length (d a n : Nat) : (drawnBytes d a n).length = n := by simp [drawnBytes]

/-- After `unspecify` a byte of one of the ranges holds the draw at its address; every other byte is unchanged. -/
theorem Memory.lookup_unspecify (d : Nat) (rs : List (Nat × Nat)) (m : Memory) (b : Nat) :
    (m.unspecify d rs).lookup b =
      if rs.any (fun r => decide (r.1 ≤ b) && decide (b < r.1 + r.2)) then some (Config.freeByte d b)
      else m.lookup b := by
  induction rs generalizing m with
  | nil => simp [Memory.unspecify]
  | cons r rs ih =>
    obtain ⟨a, n⟩ := r
    rw [Memory.unspecify, ih, Memory.lookup_storeBytes, drawnBytes_length]
    by_cases h : a ≤ b ∧ b < a + n
    · have hget : (drawnBytes d a n)[b - a]? = some (Config.freeByte d b) := by
        have : b - a < n := by omega
        simp [drawnBytes, List.getElem?_map, List.getElem?_range this]; congr 1; omega
      simp [h, hget]
    · have : (decide (a ≤ b) && decide (b < a + n)) = false := by simpa using h
      rw [if_neg h, List.any_cons, this, Bool.false_or]

/-! ## The canonical form -/

theorem Memory.risesAbove_insert {c a : Nat} (h : c < a) (v : Byte) {m : Memory} (hm : m.risesAbove c = true) :
    (m.insert a v).risesAbove c = true := by
  induction m generalizing c with
  | nil => simp [Memory.insert, Memory.risesAbove, h]
  | cons e m ih =>
    obtain ⟨x, w⟩ := e
    simp only [Memory.risesAbove, Bool.and_eq_true, decide_eq_true_eq] at hm
    simp only [Memory.insert]
    split
    · next hx => simp [Memory.risesAbove, h, hx, hm.2]
    · split
      · next hx => subst hx; simp [Memory.risesAbove, h, hm.2]
      · next h1 h2 => simp [Memory.risesAbove, hm.1, ih (by omega : x < a) hm.2]

theorem Memory.wf_insert (a : Nat) (v : Byte) {m : Memory} (hm : m.wf = true) : (m.insert a v).wf = true := by
  cases m with
  | nil => simp [Memory.insert, Memory.wf, Memory.risesAbove]
  | cons e m =>
    obtain ⟨x, w⟩ := e
    simp only [Memory.insert]
    split
    · next hx => simpa [Memory.wf, Memory.risesAbove, hx] using hm
    · split
      · next hx => subst hx; simpa [Memory.wf] using hm
      · next h1 h2 => exact Memory.risesAbove_insert (by omega) v hm

/-- A store keeps the canonical form. -/
theorem Memory.wf_storeBytes {m : Memory} (hm : m.wf = true) (a : Nat) (vs : List Byte) :
    (m.storeBytes a vs).wf = true := by
  induction vs generalizing m a with
  | nil => exact hm
  | cons v vs ih => exact ih (Memory.wf_insert a v hm) (a + 1)

/-- Drawing free values keeps the canonical form. -/
theorem Memory.wf_unspecify {m : Memory} (hm : m.wf = true) (d : Nat) (rs : List (Nat × Nat)) :
    (m.unspecify d rs).wf = true := by
  induction rs generalizing m with
  | nil => exact hm
  | cons r rs ih => exact ih (Memory.wf_storeBytes hm _ _)

theorem Memory.wf_reset : State.reset.mem.wf = true := rfl

/-- An entry after an insertion is the one inserted or was there before. -/
theorem Memory.mem_insert {m : Memory} {a : Nat} {v : Byte} {c : Host.Cell} (h : c ∈ m.insert a v) :
    c = (a, v) ∨ c ∈ m := by
  induction m with
  | nil => simpa [Memory.insert] using h
  | cons e m ih =>
    obtain ⟨x, w⟩ := e
    simp only [Memory.insert] at h
    split at h
    · simpa using h
    · split at h
      · simp only [List.mem_cons] at h ⊢; tauto
      · simp only [List.mem_cons] at h ⊢
        rcases h with h | h
        · exact .inr (.inl h)
        · exact (ih h).imp id .inr

/-- An address listed after a store is one of those stored or was listed before. -/
theorem Memory.mem_storeBytes {vs : List Byte} {m : Memory} {a : Nat} {c : Host.Cell} (h : c ∈ m.storeBytes a vs) :
    (a ≤ c.1 ∧ c.1 < a + vs.length) ∨ c ∈ m := by
  induction vs generalizing m a with
  | nil => exact .inr h
  | cons v vs ih =>
    rcases ih h with h | h
    · left; simp; omega
    · rcases Memory.mem_insert h with rfl | h
      · left; simp
      · exact .inr h

theorem Memory.mem_unspecify {d : Nat} {rs : List (Nat × Nat)} {m : Memory} {c : Host.Cell}
    (h : c ∈ m.unspecify d rs) : (∃ r ∈ rs, r.1 ≤ c.1 ∧ c.1 < r.1 + r.2) ∨ c ∈ m := by
  induction rs generalizing m with
  | nil => exact .inr h
  | cons r rs ih =>
    rcases ih h with ⟨r', hr', hc⟩ | h
    · exact .inl ⟨r', by simp [hr'], hc⟩
    · rcases Memory.mem_storeBytes h with h | h
      · rw [drawnBytes_length] at h; exact .inl ⟨r, by simp, h⟩
      · exact .inr h

/-! ## Bytes of the state -/

theorem byteAt_congr {s t : State} (hm : t.mem = s.mem) (he : t.epoch = s.epoch) (a : Nat) : t.byteAt a = s.byteAt a := by
  simp [State.byteAt, hm, he]

theorem byteAt_storeBytes (s : State) (a : Nat) (vs : List Byte) (b : Nat) :
    (s.storeBytes a vs).byteAt b = if a ≤ b ∧ b < a + vs.length then vs.getD (b - a) 0#8 else s.byteAt b := by
  simp only [State.byteAt, State.storeBytes_mem, State.storeBytes_epoch, Memory.lookup_storeBytes]
  split
  · next h =>
    have : b - a < vs.length := by omega
    simp [List.getElem?_eq_getElem this, List.getD_eq_getElem?_getD]
  · rfl

theorem byteAt_unspecify (s : State) (rs : List (Nat × Nat)) (b : Nat) :
    (s.unspecify rs).byteAt b =
      if rs.any (fun r => decide (r.1 ≤ b) && decide (b < r.1 + r.2)) then Config.freeByte s.draws b else s.byteAt b := by
  simp only [State.byteAt, State.unspecify_mem, State.unspecify_epoch, Memory.lookup_unspecify]
  split <;> rfl

/-! ## Words -/

@[simp] theorem wordBytes_length (w : Word) : (wordBytes w).length = 4 := rfl

theorem flatMap_wordBytes_length (ws : List Word) : (ws.flatMap wordBytes).length = 4 * ws.length := by
  induction ws with
  | nil => rfl
  | cons w ws ih => simp [List.flatMap_cons, ih]; omega

theorem flatMap_wordBytes_getD (ws : List Word) (i b : Nat) (hb : b < 4) (d : Byte) (hi : i < ws.length) :
    (ws.flatMap wordBytes).getD (4 * i + b) d = (wordBytes (ws.getD i 0#32)).getD b d := by
  induction ws generalizing i with
  | nil => simp at hi
  | cons w ws ih =>
    cases i with
    | zero =>
      simp only [List.flatMap_cons, Nat.mul_zero, Nat.zero_add, List.getD_cons_zero]
      rw [List.getD_append _ _ _ _ (by simp [hb])]
    | succ i =>
      simp only [List.flatMap_cons, List.getD_cons_succ]
      rw [List.getD_append_right _ _ _ _ (by simp; omega)]
      rw [← ih i (by simpa using hi)]
      congr 1
      simp; omega

theorem extractLsb'_append_bytes (w : Word) :
    w.extractLsb' 24 8 ++ w.extractLsb' 16 8 ++ w.extractLsb' 8 8 ++ w.extractLsb' 0 8 = w := by
  rw [BitVec.append_assoc, BitVec.append_assoc]
  simp only [BitVec.cast_eq]
  ext i hi
  simp only [BitVec.getElem_append, BitVec.getElem_extractLsb']
  rw [← BitVec.getLsbD_eq_getElem (by omega : i < 32)]
  split
  · split
    · split
      · simp
      · congr 1; omega
    · congr 1; omega
  · congr 1; omega

/-- The bytes of a word make the word again (spec/20_memory.md R52). -/
theorem bytesWord_wordBytes (w : Word) (d : Byte) :
    bytesWord ((wordBytes w).getD 0 d) ((wordBytes w).getD 1 d) ((wordBytes w).getD 2 d) ((wordBytes w).getD 3 d) = w :=
  extractLsb'_append_bytes w

/-- A store of consecutive words: inside, the word stored; outside, what was there (spec/20_memory.md R55). -/
theorem wordAt_storeWords (s : State) (off : Nat) (ws : List Word) (o : Nat) :
    (s.storeWords off ws).wordAt o =
      if off ≤ o ∧ o < off + ws.length then ws.getD (o - off) 0#32 else s.wordAt o := by
  simp only [State.wordAt, State.storeWords, byteAt_storeBytes, flatMap_wordBytes_length]
  by_cases h : off ≤ o ∧ o < off + ws.length
  · have hi : o - off < ws.length := by omega
    have key : ∀ b, b < 4 → (4 * off ≤ 4 * o + b ∧ 4 * o + b < 4 * off + 4 * ws.length) ∧
        (ws.flatMap wordBytes).getD (4 * o + b - 4 * off) 0#8 =
          (wordBytes (ws.getD (o - off) 0#32)).getD b 0#8 := by
      intro b hb
      refine ⟨by omega, ?_⟩
      rw [show 4 * o + b - 4 * off = 4 * (o - off) + b by omega]
      exact flatMap_wordBytes_getD ws _ b hb _ hi
    rw [if_pos h]
    have k0 := key 0 (by omega); have k1 := key 1 (by omega); have k2 := key 2 (by omega); have k3 := key 3 (by omega)
    simp only [Nat.add_zero] at k0
    rw [if_pos k0.1, if_pos k1.1, if_pos k2.1, if_pos k3.1, k0.2, k1.2, k2.2, k3.2]
    exact bytesWord_wordBytes _ _
  · rw [if_neg h, if_neg (by omega), if_neg (by omega), if_neg (by omega), if_neg (by omega)]

/-! ## Cells -/

/-- `sint_32` of `enc_32` of an integer that fits is the integer (spec/00_scope.md R6). -/
theorem toInt_enc32 {v : Int} (h : in32 v = true) : (enc32 v).toInt = v := by
  simp only [in32, Bool.and_eq_true, decide_eq_true_eq] at h
  exact BitVec.toInt_ofInt_eq_self (by decide) (by simpa using h.1) (by have := h.2; norm_num at this ⊢; omega)

theorem enc32_toInt (w : Word) : enc32 w.toInt = w := BitVec.ofInt_toInt

/-- Every cell holds an integer that fits (spec/00_scope.md R7). -/
theorem in32_toInt (w : Word) : in32 w.toInt = true := by
  have h1 := BitVec.le_toInt w
  have h2 := BitVec.toInt_lt (x := w)
  simp only [in32, Bool.and_eq_true, decide_eq_true_eq]
  norm_num at h1 h2 ⊢
  omega

theorem in32_cell (s : State) (r : Region) (j : Nat) : in32 (s.cell r j) = true := in32_toInt _

theorem cell_congr {s t : State} (hm : t.mem = s.mem) (he : t.epoch = s.epoch) (r : Region) (j : Nat) :
    t.cell r j = s.cell r j := by
  simp [State.cell, State.wordAt, byteAt_congr hm he]

theorem bb_congr {s t : State} (hm : t.mem = s.mem) (he : t.epoch = s.epoch) (i : Nat) : t.bb i = s.bb i :=
  byteAt_congr hm he _

/-- A cell of the memory that is stored to, the values fitting: inside, the value; outside, what was there. -/
theorem cell_storeCells (s : State) (r : Region) (lo : Nat) (vs : List Int) (j : Nat) (hf : ∀ v ∈ vs, in32 v = true) :
    (s.storeCells r lo vs).cell r j = if lo ≤ j ∧ j < lo + vs.length then vs.getD (j - lo) 0 else s.cell r j := by
  simp only [State.cell, State.storeCells, wordAt_storeWords, List.length_map]
  by_cases h : lo ≤ j ∧ j < lo + vs.length
  · have hi : j - lo < vs.length := by omega
    rw [if_pos h, if_pos (by omega), show r.base + j - (r.base + lo) = j - lo by omega]
    simp only [List.getD_eq_getElem?_getD, List.getElem?_map, List.getElem?_eq_getElem hi, Option.map_some,
      Option.getD_some]
    exact toInt_enc32 (hf _ (List.getElem_mem hi))
  · rw [if_neg h, if_neg (by omega)]

/-- A store inside one memory's window leaves the other memories alone. -/
theorem cell_storeCells_other (s : State) {r r' : Region} (h : r' ≠ r) (lo : Nat) (vs : List Int) (j : Nat)
    (hlo : lo + vs.length ≤ 0x800) (hj : j < 0x800) : (s.storeCells r lo vs).cell r' j = s.cell r' j := by
  simp only [State.cell, State.storeCells, wordAt_storeWords, List.length_map]
  rw [if_neg]
  cases r <;> cases r' <;> simp_all [Region.base] <;> omega

/-- A store into one of the six memories leaves `BB` alone. -/
theorem bb_storeCells (s : State) (r : Region) (lo : Nat) (vs : List Int) (i : Nat) (hi : i < 0x1000) :
    (s.storeCells r lo vs).bb i = s.bb i := by
  simp only [State.bb, State.storeCells, State.storeWords, byteAt_storeBytes]
  rw [if_neg]
  cases r <;> simp [Region.base, bbAddr] <;> omega

/-- A store into `BB`: inside, the byte stored; outside, what was there. -/
theorem bb_storeBytes (s : State) (vs : List Byte) (i : Nat) :
    (s.storeBytes bbAddr vs).bb i = if i < vs.length then vs.getD i 0#8 else s.bb i := by
  simp only [State.bb, byteAt_storeBytes]
  by_cases h : i < vs.length
  · rw [if_pos h, if_pos (by omega), show bbAddr + i - bbAddr = i by omega]
  · rw [if_neg h, if_neg (by omega)]

/-- A store into `BB` leaves the six memories alone. -/
theorem cell_storeBlock (s : State) (vs : List Byte) (hv : vs.length ≤ 0x1000) (r : Region) (j : Nat) :
    (s.storeBytes bbAddr vs).cell r j = s.cell r j := by
  simp only [State.cell, State.wordAt, byteAt_storeBytes]
  rw [if_neg, if_neg, if_neg, if_neg] <;> (cases r <;> simp [Region.base, bbAddr] <;> omega)

/-- The bytes a store of cells leaves alone. -/
theorem byteAt_storeCells_outside (s : State) (r : Region) (lo : Nat) (vs : List Int) (a : Nat)
    (h : ¬(4 * (r.base + lo) ≤ a ∧ a < 4 * (r.base + (lo + vs.length)))) :
    (s.storeCells r lo vs).byteAt a = s.byteAt a := by
  simp only [State.storeCells, State.storeWords, byteAt_storeBytes, flatMap_wordBytes_length, List.length_map]
  rw [if_neg]; omega

end Sys2Proof.Machine
end

