-- ==== Sys2Proof/Laws/Commands.lean ====
section
/-! SUPPORT. What the checks and the bodies of the commands do: one lemma for each, cited by whatever is proved about a
command. -/

namespace Sys2Proof.Machine

open Sys2Proof.Safety

/-! ## The derived lengths -/

/-- `LEN` is legal exactly when it is even and `2 .. 1024` (spec/10_state.md R27). -/
theorem lenLegal_iff (s : State) : s.lenLegal = true ↔ s.lenL % 2 = 0 ∧ 2 ≤ s.lenL ∧ s.lenL ≤ 1024 := by
  simp [State.lenLegal, and_assoc]

/-- The bounds of spec/10_state.md R38. -/
theorem lengths_of_legal {s : State} (h : s.lenLegal = true) :
    s.lenL = 2 * s.lenK ∧ s.lenN = 2 * s.lenK + 2 ∧ 1 ≤ s.lenK ∧ s.lenK ≤ 512 ∧ s.lenN ≤ 1026 := by
  have h' := (lenLegal_iff s).1 h
  have hk : s.lenK = s.lenL / 2 := rfl
  have hn : s.lenN = s.lenL + 2 := rfl
  omega

/-! ## The checks of spec/40_control.md R87 -/

theorem checkLen_legal {s : State} (h : s.lenLegal = true) (b : Host.Outcome State Fault Refusal) :
    checkLen s b = b := by simp [checkLen, h]

theorem checkLen_illegal {s : State} (h : s.lenLegal = false) (b : Host.Outcome State Fault Refusal) :
    checkLen s b = raised s .len := by simp [checkLen, h]

theorem checkStep_legal {s : State} (h : s.stepSize ≠ 0#16) (b : Host.Outcome State Fault Refusal) :
    checkStep s b = b := by simp [checkStep, h]

theorem checkStep_illegal {s : State} (h : s.stepSize = 0#16) (b : Host.Outcome State Fault Refusal) :
    checkStep s b = raised s .cfg := by simp [checkStep, h]

theorem checkMode_legal {s : State} {m : QMode} (h : s.narrowing = some m)
    (b : QMode → Host.Outcome State Fault Refusal) : checkMode s b = b m := by simp [checkMode, h]

/-- Only `QMODE = 3` selects no mode (spec/10_state.md R26). -/
theorem narrowing_none_iff (s : State) : s.narrowing = none ↔ s.qmode = 3#2 := by
  have h : ∀ q : BitVec 2, (match q.toNat with
      | 0 => some QMode.satS8 | 1 => some .wrapS8 | 2 => some .satU8 | _ => none) = none ↔ q = 3#2 := by decide
  exact h s.qmode

/-- The mode that the meanings use is the one that `QMODE` selects (spec/10_state.md R26). -/
theorem narrowing_of_selectsMode {s : State} {m : QMode} (h : SelectsMode s m) : s.narrowing = some m := by
  rcases h with ⟨hq, rfl⟩ | ⟨hq, rfl⟩ | ⟨hq, rfl⟩ <;> simp [State.narrowing, hq]

theorem checkMode_illegal {s : State} (h : s.qmode = 3#2) (b : QMode → Host.Outcome State Fault Refusal) :
    checkMode s b = raised s .cfg := by simp [checkMode, (narrowing_none_iff s).2 h]

/-- A check lets its body through or raises. -/
theorem checkLen_cases (s : State) (b : Host.Outcome State Fault Refusal) :
    (s.lenLegal = true ∧ checkLen s b = b) ∨ (s.lenLegal = false ∧ checkLen s b = .next (s.raise .len)) := by
  cases h : s.lenLegal
  · exact .inr ⟨rfl, checkLen_illegal h b⟩
  · exact .inl ⟨rfl, checkLen_legal h b⟩

theorem checkStep_cases (s : State) (b : Host.Outcome State Fault Refusal) :
    (s.stepSize ≠ 0#16 ∧ checkStep s b = b) ∨ (s.stepSize = 0#16 ∧ checkStep s b = .next (s.raise .cfg)) := by
  by_cases h : s.stepSize = 0#16
  · exact .inr ⟨h, checkStep_illegal h b⟩
  · exact .inl ⟨h, checkStep_legal h b⟩

theorem checkMode_cases (s : State) (b : QMode → Host.Outcome State Fault Refusal) :
    (∃ m, s.narrowing = some m ∧ checkMode s b = b m) ∨
    (s.narrowing = none ∧ checkMode s b = .next (s.raise .cfg)) := by
  cases h : s.narrowing with
  | none => exact .inr ⟨rfl, by simp [checkMode, h, raised]⟩
  | some m => exact .inl ⟨m, rfl, checkMode_legal h b⟩

/-- The end of a body that may raise `ERR_VOD`. -/
theorem checkResult_cases (s : State) (ds : List (Nat × Nat)) (r : Option State) :
    (∃ t, r = some t ∧ checkResult s ds r = .next t.finish) ∨
    (r = none ∧ checkResult s ds r = .next ((s.unspecify ds).raise .vod)) := by
  cases r with
  | none => exact .inr ⟨rfl, rfl⟩
  | some t => exact .inl ⟨t, rfl, rfl⟩

/-! ## PACK -/

theorem headRe_length (s : State) : s.headRe.length = s.lenK + 2 := by simp [State.headRe]

theorem headIm_length (s : State) : s.headIm.length = s.lenK + 2 := by simp [State.headIm]

/-- `0 <= deq(b) <= 16 711 425` (spec/41_pack.md R90). -/
theorem deq_range (s : State) (b : Byte) : 0 ≤ s.deq b ∧ s.deq b ≤ 16711425 := by
  have hb : b.toNat ≤ 255 := by have := b.isLt; omega
  have hs : s.stepSize.toNat ≤ 65535 := by have := s.stepSize.isLt; omega
  have h := Nat.mul_le_mul hb hs
  unfold State.deq
  constructor <;> [positivity; exact_mod_cast h]

theorem in32_deq (s : State) (b : Byte) : in32 (s.deq b) = true := by
  have := deq_range s b
  exact in32_iff.2 (by omega)

theorem in32_headRe (s : State) : ∀ v ∈ s.headRe, in32 v = true := by
  intro v hv
  simp only [State.headRe, List.mem_append, List.mem_singleton, List.mem_map] at hv
  rcases hv with (rfl | ⟨_, _, rfl⟩) | rfl
  · exact in32_toInt _
  · exact in32_deq _ _
  · rfl

theorem in32_headIm (s : State) : ∀ v ∈ s.headIm, in32 v = true := by
  intro v hv
  simp only [State.headIm, List.mem_append, List.mem_singleton, List.mem_map] at hv
  rcases hv with (rfl | ⟨_, _, rfl⟩) | rfl
  · rfl
  · exact in32_deq _ _
  · rfl

theorem headRe_getD (s : State) (j : Nat) (hj : j ≤ s.lenK + 1) :
    s.headRe.getD j 0 = if j = 0 then s.sent.toInt else if j ≤ s.lenK then s.deq (s.bb (j - 1)) else 0 := by
  rcases j with _ | j
  · simp [State.headRe]
  · by_cases h : j < s.lenK
    · simp [State.headRe, List.getD_eq_getElem?_getD, List.getElem?_append, h]
    · have : j = s.lenK := by omega
      subst this
      simp [State.headRe, List.getD_eq_getElem?_getD]

theorem headIm_getD (s : State) (j : Nat) (hj : j ≤ s.lenK + 1) :
    s.headIm.getD j 0 = if j = 0 then 0 else if j ≤ s.lenK then s.deq (s.bb (s.lenK + j - 1)) else 0 := by
  rcases j with _ | j
  · simp [State.headIm]
  · by_cases h : j < s.lenK
    · simp [State.headIm, List.getD_eq_getElem?_getD, List.getElem?_append, h]
    · have : j = s.lenK := by omega
      subst this
      simp [State.headIm, List.getD_eq_getElem?_getD]

/-- The bins after PACK's body: the head holds the block, the bins above it are as before. -/
theorem packBody_sr {s : State} (h : s.lenLegal = true) {j : Nat} (hj : j < 0x800) :
    (packBody s).cell .sr j = if j ≤ s.lenK + 1 then s.headRe.getD j 0 else s.cell .sr j := by
  have hl := lengths_of_legal h
  rw [packBody, cell_storeCells_other _ (by decide) _ _ _ (by rw [headIm_length]; omega) hj,
    cell_storeCells _ _ _ _ _ (in32_headRe s), headRe_length]
  by_cases hk : j ≤ s.lenK + 1
  · rw [if_pos hk, if_pos (by omega), Nat.sub_zero]
  · rw [if_neg hk, if_neg (by omega)]

theorem packBody_si {s : State} (h : s.lenLegal = true) {j : Nat} (hj : j < 0x800) :
    (packBody s).cell .si j = if j ≤ s.lenK + 1 then s.headIm.getD j 0 else s.cell .si j := by
  have hl := lengths_of_legal h
  rw [packBody, cell_storeCells _ _ _ _ _ (in32_headIm s), headIm_length,
    cell_storeCells_other _ (by decide) _ _ _ (by rw [headRe_length]; omega) hj]
  by_cases hk : j ≤ s.lenK + 1
  · rw [if_pos hk, if_pos (by omega), Nat.sub_zero]
  · rw [if_neg hk, if_neg (by omega)]

theorem packBody_cell_other {s : State} (h : s.lenLegal = true) {r : Region} (h1 : r ≠ .sr) (h2 : r ≠ .si) {j : Nat}
    (hj : j < 0x800) : (packBody s).cell r j = s.cell r j := by
  have hl := lengths_of_legal h
  rw [packBody, cell_storeCells_other _ h2 _ _ _ (by rw [headIm_length]; omega) hj,
    cell_storeCells_other _ h1 _ _ _ (by rw [headRe_length]; omega) hj]

theorem packBody_bb (s : State) {i : Nat} (hi : i < 0x1000) : (packBody s).bb i = s.bb i := by
  rw [packBody, bb_storeCells _ _ _ _ _ hi, bb_storeCells _ _ _ _ _ hi]

theorem packBody_byteAt (s : State) (a : Nat) (h : ¬Writes .pack s a) : (packBody s).byteAt a = s.byteAt a := by
  simp only [Writes, inCells, not_or] at h
  rw [packBody, byteAt_storeCells_outside, byteAt_storeCells_outside]
  · rw [headRe_length, Nat.zero_add]; exact h.1
  · rw [headIm_length, Nat.zero_add]; exact h.2

/-! ## SYM -/

theorem negationOverflows_iff (s : State) :
    s.negationOverflows = true ↔ ∃ j, 1 ≤ j ∧ j ≤ s.lenK ∧ s.cell .si j = -2 ^ 31 := by
  simp only [State.negationOverflows, List.any_eq_true, List.mem_range, decide_eq_true_eq]
  constructor
  · rintro ⟨t, ht, h⟩; exact ⟨t + 1, by omega, by omega, h⟩
  · rintro ⟨j, h1, h2, h⟩; exact ⟨j - 1, by omega, by rwa [Nat.sub_add_cancel h1]⟩

/-- SYM's body raises exactly when some negation does not fit; else it writes the mirror. -/
theorem symBody_none_iff (s : State) :
    symBody s = none ↔ ∃ j, 1 ≤ j ∧ j ≤ s.lenK ∧ s.cell .si j = -2 ^ 31 := by
  rw [← negationOverflows_iff, symBody]; cases s.negationOverflows <;> simp

theorem symBody_some {s : State} (h : ∀ j, 1 ≤ j → j ≤ s.lenK → s.cell .si j ≠ -2 ^ 31) :
    symBody s = some ((s.storeCells .sr (s.lenK + 2) s.mirrorRe).storeCells .si (s.lenK + 2) s.mirrorIm) := by
  have : s.negationOverflows = false := by
    rw [← Bool.not_eq_true, negationOverflows_iff]; rintro ⟨j, h1, h2, h3⟩; exact h j h1 h2 h3
  simp [symBody, this]

theorem in32_neg_cell {s : State} {r : Region} {j : Nat} (h : s.cell r j ≠ -2 ^ 31) :
    in32 (-s.cell r j) = true := by
  have := in32_iff.1 (in32_cell s r j)
  exact in32_iff.2 (by omega)

theorem in32_mirrorRe (s : State) : ∀ v ∈ s.mirrorRe, in32 v = true := by
  intro v hv
  obtain ⟨u, _, rfl⟩ := List.mem_map.1 hv
  exact in32_cell _ _ _

theorem in32_mirrorIm {s : State} (h : s.lenLegal = true) (hn : ∀ j, 1 ≤ j → j ≤ s.lenK → s.cell .si j ≠ -2 ^ 31) :
    ∀ v ∈ s.mirrorIm, in32 v = true := by
  intro v hv
  have hl := lengths_of_legal h
  obtain ⟨u, hu, rfl⟩ := List.mem_map.1 hv
  rw [List.mem_range] at hu
  exact in32_neg_cell (hn _ (by omega) (by omega))

@[simp] theorem mirrorRe_length (s : State) : s.mirrorRe.length = s.lenK := by simp [State.mirrorRe]

@[simp] theorem mirrorIm_length (s : State) : s.mirrorIm.length = s.lenK := by simp [State.mirrorIm]

theorem mirrorRe_getD (s : State) {u : Nat} (hu : u < s.lenK) :
    s.mirrorRe.getD u 0 = s.cell .sr (s.lenN - (s.lenK + 2 + u)) := by
  simp [State.mirrorRe, List.getD_eq_getElem?_getD, List.getElem?_map, List.getElem?_range hu]

theorem mirrorIm_getD (s : State) {u : Nat} (hu : u < s.lenK) :
    s.mirrorIm.getD u 0 = -s.cell .si (s.lenN - (s.lenK + 2 + u)) := by
  simp [State.mirrorIm, List.getD_eq_getElem?_getD, List.getElem?_map, List.getElem?_range hu]

/-- The bins after SYM's body (spec/42_symmetry.md R95): bin `j` of the mirror takes the conjugate of bin `N - j`; every
other bin, every other memory and every byte outside the mirror is as before. -/
theorem symBody_result {s t : State} (h : s.lenLegal = true) (ht : symBody s = some t) :
    (∀ j, j < 0x800 → t.cell .sr j =
      if s.lenK + 2 ≤ j ∧ j < s.lenN then s.cell .sr (s.lenN - j) else s.cell .sr j) ∧
    (∀ j, j < 0x800 → t.cell .si j =
      if s.lenK + 2 ≤ j ∧ j < s.lenN then -s.cell .si (s.lenN - j) else s.cell .si j) ∧
    (∀ r j, r ≠ .sr → r ≠ .si → j < 0x800 → t.cell r j = s.cell r j) ∧
    (∀ i, i < 0x1000 → t.bb i = s.bb i) ∧
    (∀ a, ¬Writes .sym s a → t.byteAt a = s.byteAt a) ∧
    t = { s with mem := t.mem } := by
  have hl := lengths_of_legal h
  have hn : ∀ j, 1 ≤ j → j ≤ s.lenK → s.cell .si j ≠ -2 ^ 31 := by
    intro j h1 h2 h3
    have := (symBody_none_iff s).2 ⟨j, h1, h2, h3⟩
    rw [this] at ht; cases ht
  rw [symBody_some hn] at ht
  injection ht with ht
  subst ht
  refine ⟨fun j hj => ?_, fun j hj => ?_, fun r j h1 h2 hj => ?_, fun i hi => ?_, fun a ha => ?_, rfl⟩
  · rw [cell_storeCells_other _ (by decide) _ _ _ (by rw [mirrorIm_length]; omega) hj,
      cell_storeCells _ _ _ _ _ (in32_mirrorRe s), mirrorRe_length]
    by_cases hm : s.lenK + 2 ≤ j ∧ j < s.lenN
    · rw [if_pos hm, if_pos (by omega), mirrorRe_getD s (by omega)]; congr 2; omega
    · rw [if_neg hm, if_neg (by omega)]
  · rw [cell_storeCells _ _ _ _ _ (in32_mirrorIm h hn), mirrorIm_length,
      cell_storeCells_other _ (by decide) _ _ _ (by rw [mirrorRe_length]; omega) hj]
    by_cases hm : s.lenK + 2 ≤ j ∧ j < s.lenN
    · rw [if_pos hm, if_pos (by omega), mirrorIm_getD s (by omega)]; congr 3; omega
    · rw [if_neg hm, if_neg (by omega)]
  · rw [cell_storeCells_other _ h2 _ _ _ (by rw [mirrorIm_length]; omega) hj,
      cell_storeCells_other _ h1 _ _ _ (by rw [mirrorRe_length]; omega) hj]
  · rw [bb_storeCells _ _ _ _ _ hi, bb_storeCells _ _ _ _ _ hi]
  · simp only [Writes, inCells, not_or] at ha
    rw [byteAt_storeCells_outside, byteAt_storeCells_outside]
    · rw [mirrorRe_length]; omega
    · rw [mirrorIm_length]; omega

/-! ## The transforms -/

/-- Results are stored exactly when every component fits. -/
theorem storeResults_none_iff (s : State) (re im : Region) (f : Nat → Cpx) (n : Nat) :
    s.storeResults re im ((List.range n).map f) = none ↔ ∃ i, i < n ∧ (f i).fits = false := by
  simp only [State.storeResults]
  split
  · next h =>
    simp only [List.all_map, List.all_eq_true, List.mem_range, Function.comp] at h
    refine ⟨fun h' => by simp at h', ?_⟩
    rintro ⟨i, hi, hf⟩
    rw [h i hi] at hf; cases hf
  · next h =>
    simp only [List.all_map, List.all_eq_true, List.mem_range, Function.comp, not_forall,
      Bool.not_eq_true] at h
    obtain ⟨i, hi, hf⟩ := h
    exact ⟨fun _ => ⟨i, hi, hf⟩, fun _ => rfl⟩

/-- Results stored into a pair of memories: entry `i` holds result `i`; every other memory, `BB` and every byte outside
is as before. -/
theorem storeResults_some {s t : State} {re im : Region} {f : Nat → Cpx} {n : Nat} (hne : re ≠ im) (hn : n ≤ 0x800)
    (ht : s.storeResults re im ((List.range n).map f) = some t) :
    (∀ i, i < n → t.cell re i = (f i).re ∧ t.cell im i = (f i).im) ∧
    (∀ r j, r ≠ re → r ≠ im → j < 0x800 → t.cell r j = s.cell r j) ∧
    (∀ i, i < 0x1000 → t.bb i = s.bb i) ∧
    (∀ a, ¬(inCells re 0 n a ∨ inCells im 0 n a) → t.byteAt a = s.byteAt a) ∧
    t = { s with mem := t.mem } := by
  have hfit : ∀ i, i < n → (f i).fits = true := by
    intro i hi
    by_contra hc
    have := (storeResults_none_iff s re im f n).2 ⟨i, hi, by simpa using hc⟩
    rw [this] at ht; cases ht
  have hre : ∀ v ∈ ((List.range n).map f).map Cpx.re, in32 v = true := by
    intro v hv
    simp only [List.mem_map, List.mem_range] at hv
    obtain ⟨_, ⟨i, hi, rfl⟩, rfl⟩ := hv
    exact (cpx_fits_iff.1 (hfit i hi)).1
  have him : ∀ v ∈ ((List.range n).map f).map Cpx.im, in32 v = true := by
    intro v hv
    simp only [List.mem_map, List.mem_range] at hv
    obtain ⟨_, ⟨i, hi, rfl⟩, rfl⟩ := hv
    exact (cpx_fits_iff.1 (hfit i hi)).2
  rw [State.storeResults, if_pos (by simpa using hfit)] at ht
  injection ht with ht
  subst ht
  have hlr : (((List.range n).map f).map Cpx.re).length = n := by simp
  have hli : (((List.range n).map f).map Cpx.im).length = n := by simp
  refine ⟨fun i hi => ⟨?_, ?_⟩, fun r j h1 h2 hj => ?_, fun i hi => ?_, fun a ha => ?_, rfl⟩
  · rw [cell_storeCells_other _ hne _ _ _ (by omega) (by omega), cell_storeCells _ _ _ _ _ hre, hlr,
      if_pos (by omega)]
    simp [List.getD_eq_getElem?_getD, List.getElem?_range hi]
  · rw [cell_storeCells _ _ _ _ _ him, hli, if_pos (by omega)]
    simp [List.getD_eq_getElem?_getD, List.getElem?_range hi]
  · rw [cell_storeCells_other _ h2 _ _ _ (by omega) hj, cell_storeCells_other _ h1 _ _ _ (by omega) hj]
  · rw [bb_storeCells _ _ _ _ _ hi, bb_storeCells _ _ _ _ _ hi]
  · simp only [inCells, not_or] at ha
    rw [byteAt_storeCells_outside, byteAt_storeCells_outside]
    · rw [hlr, Nat.zero_add]; exact ha.1
    · rw [hli, Nat.zero_add]; exact ha.2

theorem ifftBody_eq (s : State) :
    ifftBody s = s.storeResults .ar .ai
      ((List.range s.lenN).map (inverseCell s.lenN (spectrumOf s) (tableOf s))) := by
  rw [ifftBody, inverseOutputs_eq]

theorem fftBody_eq (r : Bool) (s : State) :
    fftBody r s = s.storeResults .sr .si
      ((List.range s.lenN).map (forwardCell s.lenN (fftInput r s) (tableOf s))) := by
  rw [fftBody, forwardOutputs_eq]

/-! ## UNPACK -/

@[simp] theorem unpackedBlock_length {s : State} (h : s.lenLegal = true) (m : QMode) :
    (s.unpackedBlock m).length = s.lenL := by
  have hl := lengths_of_legal h
  simp [State.unpackedBlock]; omega

theorem unpackedBlock_getD {s : State} (h : s.lenLegal = true) (m : QMode) {i : Nat} (hi : i < s.lenL) :
    (s.unpackedBlock m).getD i 0#8 = unpackedByte s m (spectrumOf s) i := by
  have hl := lengths_of_legal h
  by_cases hk : i < s.lenK
  · simp [State.unpackedBlock, unpackedByte, List.getD_eq_getElem?_getD, List.getElem?_append, hk, State.rq, spectrumOf]
  · have h2 : i - s.lenK < s.lenK := by omega
    simp [State.unpackedBlock, unpackedByte, List.getD_eq_getElem?_getD, List.getElem?_append, hk, h2, State.rq,
      spectrumOf]

/-- `BB` after UNPACK's body: the unpacked block in `BB[0 .. L-1]`, the rest as before. -/
theorem unpackBody_bb {s : State} (h : s.lenLegal = true) (m : QMode) (i : Nat) :
    (unpackBody m s).bb i = if i < s.lenL then unpackedByte s m (spectrumOf s) i else s.bb i := by
  rw [unpackBody, bb_storeBytes, unpackedBlock_length h]
  split
  · next hi => exact unpackedBlock_getD h m hi
  · rfl

theorem unpackBody_cell {s : State} (h : s.lenLegal = true) (m : QMode) (r : Region) (j : Nat) :
    (unpackBody m s).cell r j = s.cell r j := by
  have hl := lengths_of_legal h
  exact cell_storeBlock _ _ (by rw [unpackedBlock_length h]; omega) _ _

theorem unpackBody_byteAt {s : State} (h : s.lenLegal = true) (m : QMode) (a : Nat) (ha : ¬inBlock s.lenL a) :
    (unpackBody m s).byteAt a = s.byteAt a := by
  rw [unpackBody, byteAt_storeBytes, unpackedBlock_length h, if_neg]
  exact ha

end Sys2Proof.Machine
end

