-- ==== Sys2Proof/Laws/Exec.lean ====
section
/-! SUPPORT. Everything a command can do, said once for each: the checks it fails, or its body (spec/40_control.md R87). And
one lemma for each event of a step. -/

namespace Sys2Proof.Machine

open Sys2Proof.Safety

theorem execPack_cases (s : State) :
    (s.lenLegal = false ∧ exec .pack s = .next (s.raise .len)) ∨
    (s.lenLegal = true ∧ s.stepSize = 0#16 ∧ exec .pack s = .next (s.raise .cfg)) ∨
    (s.lenLegal = true ∧ s.stepSize ≠ 0#16 ∧ exec .pack s = .next (packBody s).finish) := by
  rcases checkLen_cases s (checkStep s (completed (packBody s))) with ⟨h, e⟩ | ⟨h, e⟩
  · rcases checkStep_cases s (completed (packBody s)) with ⟨h2, e2⟩ | ⟨h2, e2⟩
    · exact .inr (.inr ⟨h, h2, e.trans e2⟩)
    · exact .inr (.inl ⟨h, h2, e.trans e2⟩)
  · exact .inl ⟨h, e⟩

theorem execSym_cases (s : State) :
    (s.lenLegal = false ∧ exec .sym s = .next (s.raise .len)) ∨
    (s.lenLegal = true ∧ symBody s = none ∧ exec .sym s = .next (s.raise .vod)) ∨
    (s.lenLegal = true ∧ ∃ t, symBody s = some t ∧ exec .sym s = .next t.finish) := by
  rcases checkLen_cases s (match symBody s with | some t => completed t | none => raised s .vod) with ⟨h, e⟩ | ⟨h, e⟩
  · cases hb : symBody s with
    | none => rw [hb] at e; exact .inr (.inl ⟨h, rfl, by rw [exec, execSym, hb]; exact e⟩)
    | some t => rw [hb] at e; exact .inr (.inr ⟨h, t, rfl, by rw [exec, execSym, hb]; exact e⟩)
  · exact .inl ⟨h, e⟩

theorem execIfft_cases (s : State) :
    (s.lenLegal = false ∧ exec .ifft s = .next (s.raise .len)) ∨
    (s.lenLegal = true ∧ ifftBody s = none ∧ exec .ifft s = .next ((s.unspecify s.sampleBytes).raise .vod)) ∨
    (s.lenLegal = true ∧ ∃ t, ifftBody s = some t ∧ exec .ifft s = .next t.finish) := by
  rcases checkLen_cases s (checkResult s s.sampleBytes (ifftBody s)) with ⟨h, e⟩ | ⟨h, e⟩
  · rcases checkResult_cases s s.sampleBytes (ifftBody s) with ⟨t, hb, e2⟩ | ⟨hb, e2⟩
    · exact .inr (.inr ⟨h, t, hb, e.trans e2⟩)
    · exact .inr (.inl ⟨h, hb, e.trans e2⟩)
  · exact .inl ⟨h, e⟩

theorem execFft_cases (r : Bool) (s : State) :
    (s.lenLegal = false ∧ exec (.fft r) s = .next (s.raise .len)) ∨
    (s.lenLegal = true ∧ fftBody r s = none ∧ exec (.fft r) s = .next ((s.unspecify s.spectrumBytes).raise .vod)) ∨
    (s.lenLegal = true ∧ ∃ t, fftBody r s = some t ∧ exec (.fft r) s = .next t.finish) := by
  rcases checkLen_cases s (checkResult s s.spectrumBytes (fftBody r s)) with ⟨h, e⟩ | ⟨h, e⟩
  · rcases checkResult_cases s s.spectrumBytes (fftBody r s) with ⟨t, hb, e2⟩ | ⟨hb, e2⟩
    · exact .inr (.inr ⟨h, t, hb, e.trans e2⟩)
    · exact .inr (.inl ⟨h, hb, e.trans e2⟩)
  · exact .inl ⟨h, e⟩

theorem execUnpack_cases (s : State) :
    (s.lenLegal = false ∧ exec .unpack s = .next (s.raise .len)) ∨
    (s.lenLegal = true ∧ (s.stepSize = 0#16 ∨ s.narrowing = none) ∧ exec .unpack s = .next (s.raise .cfg)) ∨
    (s.lenLegal = true ∧ s.stepSize ≠ 0#16 ∧
      ∃ m, s.narrowing = some m ∧ exec .unpack s = .next (unpackBody m s).finish) := by
  rcases checkLen_cases s (checkStep s (checkMode s fun m => completed (unpackBody m s))) with ⟨h, e⟩ | ⟨h, e⟩
  · rcases checkStep_cases s (checkMode s fun m => completed (unpackBody m s)) with ⟨h2, e2⟩ | ⟨h2, e2⟩
    · rcases checkMode_cases s (fun m => completed (unpackBody m s)) with ⟨m, h3, e3⟩ | ⟨h3, e3⟩
      · exact .inr (.inr ⟨h, h2, m, h3, (e.trans e2).trans e3⟩)
      · exact .inr (.inl ⟨h, .inr h3, (e.trans e2).trans e3⟩)
    · exact .inr (.inl ⟨h, .inl h2, e.trans e2⟩)
  · exact .inl ⟨h, e⟩

theorem execEncode_cases (s : State) :
    (s.lenLegal = false ∧ exec .encode s = .next (s.raise .len)) ∨
    (s.lenLegal = true ∧ s.stepSize = 0#16 ∧ exec .encode s = .next (s.raise .cfg)) ∨
    (s.lenLegal = true ∧ s.stepSize ≠ 0#16 ∧ encodeBody s = none ∧
      exec .encode s = .next ((s.unspecify (s.spectrumBytes ++ s.sampleBytes)).raise .vod)) ∨
    (s.lenLegal = true ∧ s.stepSize ≠ 0#16 ∧ ∃ t, encodeBody s = some t ∧ exec .encode s = .next t.finish) := by
  rcases checkLen_cases s (checkStep s (checkResult s (s.spectrumBytes ++ s.sampleBytes) (encodeBody s)))
    with ⟨h, e⟩ | ⟨h, e⟩
  · rcases checkStep_cases s (checkResult s (s.spectrumBytes ++ s.sampleBytes) (encodeBody s)) with ⟨h2, e2⟩ | ⟨h2, e2⟩
    · rcases checkResult_cases s (s.spectrumBytes ++ s.sampleBytes) (encodeBody s) with ⟨t, hb, e3⟩ | ⟨hb, e3⟩
      · exact .inr (.inr (.inr ⟨h, h2, t, hb, (e.trans e2).trans e3⟩))
      · exact .inr (.inr (.inl ⟨h, h2, hb, (e.trans e2).trans e3⟩))
    · exact .inr (.inl ⟨h, h2, e.trans e2⟩)
  · exact .inl ⟨h, e⟩

theorem execDecode_cases (s : State) :
    (s.lenLegal = false ∧ exec .decode s = .next (s.raise .len)) ∨
    (s.lenLegal = true ∧ (s.stepSize = 0#16 ∨ s.narrowing = none) ∧ exec .decode s = .next (s.raise .cfg)) ∨
    (s.lenLegal = true ∧ s.stepSize ≠ 0#16 ∧ fftBody true s = none ∧
      exec .decode s = .next ((s.unspecify (s.spectrumBytes ++ s.blockBytes)).raise .vod)) ∨
    (s.lenLegal = true ∧ s.stepSize ≠ 0#16 ∧ ∃ m t, s.narrowing = some m ∧ fftBody true s = some t ∧
      exec .decode s = .next (unpackBody m t).finish) := by
  let b := fun m => checkResult s (s.spectrumBytes ++ s.blockBytes) (decodeBody m s)
  rcases checkLen_cases s (checkStep s (checkMode s b)) with ⟨h, e⟩ | ⟨h, e⟩
  · rcases checkStep_cases s (checkMode s b) with ⟨h2, e2⟩ | ⟨h2, e2⟩
    · rcases checkMode_cases s b with ⟨m, h3, e3⟩ | ⟨h3, e3⟩
      · cases hf : fftBody true s with
        | none =>
          refine .inr (.inr (.inl ⟨h, h2, rfl, ((e.trans e2).trans e3).trans ?_⟩))
          simp [b, decodeBody, hf, checkResult, raised]
        | some t =>
          refine .inr (.inr (.inr ⟨h, h2, m, t, h3, rfl, ((e.trans e2).trans e3).trans ?_⟩))
          simp [b, decodeBody, hf, checkResult, completed]
      · exact .inr (.inl ⟨h, .inr h3, (e.trans e2).trans e3⟩)
    · exact .inr (.inl ⟨h, .inl h2, e.trans e2⟩)
  · exact .inl ⟨h, e⟩

theorem execVerify_cases (s : State) :
    (s.lenLegal = false ∧ exec .verify s = .next (s.raise .len)) ∨
    (s.lenLegal = true ∧ s.stepSize = 0#16 ∧ exec .verify s = .next (s.raise .cfg)) ∨
    (s.lenLegal = true ∧ s.stepSize ≠ 0#16 ∧ fftBody true s = none ∧
      exec .verify s = .next ((s.unspecify s.spectrumBytes).raise .vod)) ∨
    (s.lenLegal = true ∧ s.stepSize ≠ 0#16 ∧ ∃ t, fftBody true s = some t ∧
      exec .verify s = .next (t.setMatch t.matches).finish) := by
  rcases checkLen_cases s (checkStep s (checkResult s s.spectrumBytes (verifyBody s))) with ⟨h, e⟩ | ⟨h, e⟩
  · rcases checkStep_cases s (checkResult s s.spectrumBytes (verifyBody s)) with ⟨h2, e2⟩ | ⟨h2, e2⟩
    · cases hf : fftBody true s with
      | none =>
        refine .inr (.inr (.inl ⟨h, h2, rfl, (e.trans e2).trans ?_⟩))
        simp [verifyBody, hf, checkResult, raised]
      | some t =>
        refine .inr (.inr (.inr ⟨h, h2, t, rfl, (e.trans e2).trans ?_⟩))
        simp [verifyBody, hf, checkResult, completed]
    · exact .inr (.inl ⟨h, h2, e.trans e2⟩)
  · exact .inl ⟨h, e⟩

/-- What FFT's body leaves, when it does not raise (spec/43_transform.md R102). -/
theorem fftBody_result {s t : State} {r : Bool} (h : s.lenLegal = true) (ht : fftBody r s = some t) :
    (∀ j, j < s.lenN → spectrumOf t j = forwardCell s.lenN (fftInput r s) (tableOf s) j) ∧
    (∀ r' j, r' ≠ .sr → r' ≠ .si → j < 0x800 → t.cell r' j = s.cell r' j) ∧
    (∀ i, i < 0x1000 → t.bb i = s.bb i) ∧
    (∀ a, ¬Writes (.fft r) s a → t.byteAt a = s.byteAt a) ∧
    t = { s with mem := t.mem } := by
  have hl := lengths_of_legal h
  rw [fftBody_eq] at ht
  obtain ⟨h1, h2, h3, h4, h5⟩ := storeResults_some (by decide) (by omega) ht
  exact ⟨fun j hj => by rw [spectrumOf, (h1 j hj).1, (h1 j hj).2], h2, h3, h4, h5⟩

/-- What IFFT's body leaves, when it does not raise (spec/43_transform.md R101). -/
theorem ifftBody_result {s t : State} (h : s.lenLegal = true) (ht : ifftBody s = some t) :
    (∀ n, n < s.lenN → samplesOf t n = inverseCell s.lenN (spectrumOf s) (tableOf s) n) ∧
    (∀ r j, r ≠ .ar → r ≠ .ai → j < 0x800 → t.cell r j = s.cell r j) ∧
    (∀ i, i < 0x1000 → t.bb i = s.bb i) ∧
    (∀ a, ¬Writes .ifft s a → t.byteAt a = s.byteAt a) ∧
    t = { s with mem := t.mem } := by
  have hl := lengths_of_legal h
  rw [ifftBody_eq] at ht
  obtain ⟨h1, h2, h3, h4, h5⟩ := storeResults_some (by decide) (by omega) ht
  exact ⟨fun j hj => by rw [samplesOf, (h1 j hj).1, (h1 j hj).2], h2, h3, h4, h5⟩

theorem fftBody_none_iff (r : Bool) (s : State) :
    fftBody r s = none ↔ ∃ j, j < s.lenN ∧ (forwardCell s.lenN (fftInput r s) (tableOf s) j).fits = false := by
  rw [fftBody_eq, storeResults_none_iff]

theorem ifftBody_none_iff (s : State) :
    ifftBody s = none ↔ ∃ n, n < s.lenN ∧ (inverseCell s.lenN (spectrumOf s) (tableOf s) n).fits = false := by
  rw [ifftBody_eq, storeResults_none_iff]

/-- PACK then SYM cannot raise and leaves the block's spectrum (spec/42_symmetry.md R95, R96). -/
theorem packSym_result {s : State} (h : s.lenLegal = true) :
    ∃ t, symBody (packBody s) = some t ∧
      (∀ j, j < s.lenN → spectrumOf t j = blockSpectrum s j) ∧
      (∀ r j, r ≠ .sr → r ≠ .si → j < 0x800 → t.cell r j = s.cell r j) ∧
      (∀ i, i < 0x1000 → t.bb i = s.bb i) ∧
      (∀ a, ¬(inCells .sr 0 s.lenN a ∨ inCells .si 0 s.lenN a) → t.byteAt a = s.byteAt a) ∧
      t = { s with mem := t.mem } := by
  have hl := lengths_of_legal h
  have hp : (packBody s).lenLegal = true := h
  have hsi : ∀ j, 1 ≤ j → j ≤ s.lenK → (packBody s).cell .si j = s.deq (s.bb (s.lenK + j - 1)) := by
    intro j h1 h2
    rw [packBody_si h (by omega), if_pos (by omega), headIm_getD s j (by omega), if_neg (by omega), if_pos h2]
  have hnone : ∀ j, 1 ≤ j → j ≤ (packBody s).lenK → (packBody s).cell .si j ≠ -2 ^ 31 := by
    intro j h1 h2
    rw [hsi j h1 h2]
    have := deq_range s (s.bb (s.lenK + j - 1))
    omega
  refine ⟨_, symBody_some hnone, ?_⟩
  obtain ⟨hr, hi, ho, hb, hy, he⟩ := symBody_result hp (symBody_some hnone)
  refine ⟨fun j hj => ?_, fun r j h1 h2 hj => ?_, fun i hi' => ?_, fun a ha => ?_, ?_⟩
  · rw [spectrumOf, hr j (by omega), hi j (by omega)]
    simp only [blockSpectrum]
    have hlen : (packBody s).lenK + 2 ≤ j ∧ j < (packBody s).lenN ↔ s.lenK + 2 ≤ j ∧ j < s.lenN := Iff.rfl
    by_cases hm : s.lenK + 2 ≤ j ∧ j < s.lenN
    · have hjn : 1 ≤ s.lenN - j ∧ s.lenN - j ≤ s.lenK := by omega
      rw [if_pos (hlen.2 hm), if_pos (hlen.2 hm), packBody_lenN, if_neg (by omega), if_neg (by omega), if_neg (by omega),
        packBody_sr h (by omega), if_pos (by omega), headRe_getD s _ (by omega), if_neg (by omega), if_pos hjn.2,
        hsi _ hjn.1 hjn.2]
      rfl
    · rw [if_neg (mt hlen.1 hm), if_neg (mt hlen.1 hm), packBody_sr h (by omega), packBody_si h (by omega), if_pos (by omega),
        if_pos (by omega), headRe_getD s _ (by omega), headIm_getD s _ (by omega)]
      by_cases h0 : j = 0
      · simp [h0]
      · by_cases hk : j ≤ s.lenK
        · simp only [h0, hk, if_true, if_false]; rfl
        · have : j = s.lenK + 1 := by omega
          subst this; simp
  · rw [ho r j h1 h2 hj, packBody_cell_other h h1 h2 hj]
  · rw [hb i hi', packBody_bb s hi']
  · rw [hy a, packBody_byteAt]
    · simp only [Writes, inCells] at *; omega
    · simp only [Writes, inCells, packBody_lenK, packBody_lenN] at *; omega
  · rw [he]; rfl

theorem encodeBody_eq {s : State} (h : s.lenLegal = true) :
    ∃ t, symBody (packBody s) = some t ∧ encodeBody s = ifftBody t := by
  obtain ⟨t, ht, -⟩ := packSym_result h
  exact ⟨t, ht, by rw [encodeBody, ht]; rfl⟩

/-! ## The events of a step -/

theorem step_idle {s : State} (h : s.events = []) : step s = engineTurn s := by simp [step, h]

theorem step_engine {s : State} {rest : List Event} (h : s.events = .engine :: rest) :
    step s = engineTurn { s with events := rest } := by simp [step, h]

theorem step_read {s : State} {rest : List Event} {off : Nat} (h : s.events = .read off :: rest) :
    step s = hostRead off { s with events := rest } := by simp [step, h]

theorem step_write {s : State} {rest : List Event} {off : Nat} {v : Word} (h : s.events = .write off v :: rest) :
    step s = hostWrite off v { s with events := rest } := by simp [step, h]

theorem step_reset {s : State} {rest : List Event} (h : s.events = .reset :: rest) :
    step s = .next (resetEvent { s with events := rest }) := by simp [step, h]

theorem engineTurn_busy {s : State} (h : s.busy = true) : engineTurn s = complete s := by simp [engineTurn, h]

theorem engineTurn_idle {s : State} (h : s.busy = false) : engineTurn s = .next s := by simp [engineTurn, h]

theorem complete_ok {s : State} {i : Instr} (h : decode s.cur = .ok i) : complete s = exec i s := by
  simp [complete, h]

theorem complete_error {s : State} {e : DecodeError} (h : decode s.cur = .error e) :
    complete s = .next (s.raise .cmd) := by simp [complete, h, raised]

/-! ## The port -/

/-- Which offsets are assigned memory words (spec/20_memory.md R51). -/
theorem memoryOffset_iff (off : Nat) : memoryOffset off = true ↔
    (1024 ≤ off ∧ off ≤ 1279) ∨ (2048 ≤ off ∧ off < 3074) ∨ (4096 ≤ off ∧ off < 5122) ∨ (6144 ≤ off ∧ off < 7170) ∨
    (8192 ≤ off ∧ off < 9218) ∨ (10240 ≤ off ∧ off < 11266) ∨ (12288 ≤ off ∧ off < 13314) := by
  have hr : ∀ r : Region, r.holds off = true ↔ r.base ≤ off ∧ off < r.base + 1026 := fun r => by
    rw [Region.holds, Bool.and_eq_true, decide_eq_true_iff, decide_eq_true_iff]
  rw [memoryOffset]
  repeat rw [Bool.or_eq_true]
  rw [hr, hr, hr, hr, hr, hr, Bool.and_eq_true, decide_eq_true_iff, decide_eq_true_iff]
  simp only [or_assoc]
  exact Iff.rfl

/-- An assigned memory word of the window is no control register and lies inside the window (spec/20_memory.md R51). -/
theorem memoryOffset_bounds {off : Nat} (h : memoryOffset off = true) : 0x0400 ≤ off ∧ off < 0x3800 := by
  rw [memoryOffset_iff] at h
  omega

theorem portCell_memory {off : Nat} (h : memoryOffset off = true) : portCell off = .memory := by
  have hr : ∀ k, k ≤ 7 → off ≠ k := fun k hk => by have := memoryOffset_bounds h; omega
  simp [portCell, h, hr]

theorem portCell_memory_iff (off : Nat) : portCell off = .memory ↔ memoryOffset off = true := by
  refine ⟨fun h => ?_, portCell_memory⟩
  unfold portCell at h
  repeat' split at h
  all_goals first | assumption | cases h

end Sys2Proof.Machine
end

