-- ==== Sys2Proof/Laws/PerInstr.lean ====
section
/-! SUPPORT. One family of statements about every command as syntax: it is well formed and its word decodes to it
(spec/30_encoding.md R71, R73). -/

namespace Sys2Proof.Laws

/-- The command is well formed and the decoder reads its word back. -/
def RoundTrip.Statement (i : Instr) : Prop := i.wellFormed = true ∧ decode (encode i) = .ok i

theorem RoundTrip.nop : RoundTrip.Statement .nop := by constructor <;> rfl

theorem RoundTrip.pack : RoundTrip.Statement .pack := by constructor <;> rfl

theorem RoundTrip.sym : RoundTrip.Statement .sym := by constructor <;> rfl

theorem RoundTrip.ifft : RoundTrip.Statement .ifft := by constructor <;> rfl

theorem RoundTrip.fft (r : Bool) : RoundTrip.Statement (.fft r) := by cases r <;> constructor <;> rfl

theorem RoundTrip.unpack : RoundTrip.Statement .unpack := by constructor <;> rfl

theorem RoundTrip.encode : RoundTrip.Statement .encode := by constructor <;> rfl

theorem RoundTrip.decode : RoundTrip.Statement .decode := by constructor <;> rfl

theorem RoundTrip.verify : RoundTrip.Statement .verify := by constructor <;> rfl

theorem RoundTrip.clrerr : RoundTrip.Statement .clrerr := by constructor <;> rfl

end Sys2Proof.Laws
end

