-- ==== Sys2Proof/Tests/Slice0.lean ====
section
/-! SUPPORT. Tests on small states. Expected numbers are the spec's own (spec/95_test_vectors.md, the vector named at each
test); the witnesses show that the hypotheses of the statements can be met. -/

namespace Sys2Proof.Tests

open Sys2Proof.Machine Sys2Proof.Safety

/- The tests are evaluated one after another: each is small, but all at once would need one kernel thread each. -/
set_option Elab.async false

/-! ## Small states -/

/-- The state an outcome leads to; reset where it stops. -/
def after : Host.Outcome State Fault Refusal → State
  | .next t => t
  | .fault _ => .reset
  | .refused _ => .reset

/-- The outcome is a next state. -/
def goesOn : Host.Outcome State Fault Refusal → Bool
  | .next _ => true
  | .fault _ => false
  | .refused _ => false

theorem next_after {o : Host.Outcome State Fault Refusal} (h : goesOn o = true) : o = .next (after o) := by
  cases o <;> simp_all [goesOn, after]

/-- A machine with a table, `LEN`, `STEP`, `SENT` loaded. -/
def loaded (table : List Cpx) (len : BitVec 11) (step : BitVec 16) (sent : Word) : State :=
  let s : State := { State.reset with len := len, stepSize := step, sent := sent }
  (s.storeCells .twr 0 (table.map Cpx.re)).storeCells .twi 0 (table.map Cpx.im)

/-- Complex values stored into a pair of memories from entry 0. -/
def withCells (s : State) (re im : Region) (xs : List Cpx) : State :=
  (s.storeCells re 0 (xs.map Cpx.re)).storeCells im 0 (xs.map Cpx.im)

/-- The machine of program P1 with its block loaded. -/
def p1 : State := (loaded standardTable4 2 64 100).storeBytes bbAddr [7, 9, 0, 0]

/-- The machine of program P2 with its block loaded. -/
def p2 : State := (loaded standardTable6 4 64 (-1000)).storeBytes bbAddr [1, 200, 127, 128]

/-- P1 with the spectrum and the samples of V20 and V21 loaded. -/
def p1Full : State :=
  withCells (withCells p1 .sr .si [⟨100, 0⟩, ⟨448, 576⟩, ⟨0, 0⟩, ⟨448, -576⟩]) .ar .ai
    [⟨249, 0⟩, ⟨-263, 0⟩, ⟨-199, 0⟩, ⟨313, 0⟩]

/-- P5's window: bin 0 of its transform is `2^31`. -/
def p5 : State := withCells p1 .ar .ai (List.replicate 4 ⟨536870912, 0⟩)

/-- A machine with a block and no table: enough for PACK. -/
def small : State := ({ State.reset with len := 2, stepSize := 64 } : State).storeBytes bbAddr [7, 9]

/-- The machine busy with the word, the engine's turn next. -/
def running (w : Word) (s : State) : State := { s with cur := w, busy := true, done := false, events := [.engine] }

/-- The entries `lo .. lo+n-1` of a pair of memories. -/
def cells (s : State) (re im : Region) (lo n : Nat) : List (Int × Int) :=
  (List.range n).map fun j => (s.cell re (lo + j), s.cell im (lo + j))

/-- The block's first `n` bytes. -/
def block (s : State) (n : Nat) : List Byte := (List.range n).map s.bb

/-! ## The encoding -/

theorem test_wellFormed_refuses_opcode : (⟨0x0A#8, false, 0#23⟩ : CommandFields).wellFormed = false := by decide

theorem test_wellFormed_refuses_flag : (⟨0x05#8, true, 0#23⟩ : CommandFields).wellFormed = false := by decide

theorem test_wellFormed_refuses_reserved : (⟨0x04#8, false, 1#23⟩ : CommandFields).wellFormed = false := by decide

/-- The words of the table of R71, written out bit by bit (opcode in bits 7 to 0, R in bit 8). -/
theorem test_decode_words :
    decode 0b00000000000000000000000000000000#32 = .ok .nop ∧
    decode 0b00000000000000000000000000000001#32 = .ok .pack ∧
    decode 0b00000000000000000000000000000010#32 = .ok .sym ∧
    decode 0b00000000000000000000000000000011#32 = .ok .ifft ∧
    decode 0b00000000000000000000000000000100#32 = .ok (.fft false) ∧
    decode 0b00000000000000000000000100000100#32 = .ok (.fft true) ∧
    decode 0b00000000000000000000000000000101#32 = .ok .unpack ∧
    decode 0b00000000000000000000000000000110#32 = .ok .encode ∧
    decode 0b00000000000000000000000000000111#32 = .ok .decode ∧
    decode 0b00000000000000000000000000001000#32 = .ok .verify ∧
    decode 0b00000000000000000000000000001001#32 = .ok .clrerr := by
  refine ⟨?_, ?_, ?_, ?_, ?_, ?_, ?_, ?_, ?_, ?_, ?_⟩ <;> rfl

/-- V41: the illegal words, each by the field that makes it so. -/
theorem test_decode_illegal :
    decode 0x0000000A#32 = .error .opcode ∧ decode 0x000000FF#32 = .error .opcode ∧
    decode 0x00000105#32 = .error .realFlag ∧ decode 0x00000100#32 = .error .realFlag ∧
    decode 0x80000000#32 = .error .reservedBits ∧ decode 0x00000204#32 = .error .reservedBits := by
  refine ⟨?_, ?_, ?_, ?_, ?_, ?_⟩ <;> rfl

theorem test_decodeTableWord : decodeTableWord 32 0x104 = some (.fft true) ∧ decodeTableWord 32 0x0A = none := by
  constructor <;> rfl

/-- After reset the first command runs, and a data command finds `LEN = 0` (V41, first line). -/
theorem test_withFetchWord :
    (after (step (State.reset.withFetchWord 32 0))).statusWord = 0x02#32 ∧
    (after (step (State.reset.withFetchWord 32 6))).statusWord = 0x22#32 := by decide

/-! ## Arithmetic -/

/-- V10: ties go up. -/
theorem test_rdiv :
    rdiv 7 2 = 4 ∧ rdiv (-7) 2 = -3 ∧ rdiv (-5) 2 = -2 ∧ rdiv (-1) 2 = 0 ∧ rdiv (-3) 2 = -1 ∧ rdiv (-2) 3 = -1 ∧
    rdiv 12831 64 = 200 ∧ rdiv 12832 64 = 201 ∧ rdiv (-32) 64 = 0 ∧ rdiv (-33) 64 = -1 := by decide

/-- V14 and the table of R111. -/
theorem test_narrow :
    [128, 256, -1, -129, -200, 511].map (narrow .satS8) = [0x7F#8, 0x7F#8, 0xFF#8, 0x80#8, 0x80#8, 0x7F#8] ∧
    [128, 256, -1, -129, -200, 511].map (narrow .wrapS8) = [0x80#8, 0x00#8, 0xFF#8, 0x7F#8, 0x38#8, 0xFF#8] ∧
    [128, 256, -1, -129, -200, 511].map (narrow .satU8) = [0x80#8, 0xFF#8, 0x00#8, 0x00#8, 0x00#8, 0xFF#8] := by decide

/-! ## One command each -/

/-- V15, first case: bin `j` pairs byte `j - 1` with byte `k + j - 1`. -/
theorem test_pack :
    cells (after (exec .pack p2)) .sr .si 0 4 = [(-1000, 0), (64, 8128), (12800, 8192), (0, 0)] := by decide +kernel

/-- V16: the mirror of V15, the head unchanged. -/
theorem test_sym :
    cells (after (exec .sym (withCells p2 .sr .si [⟨1, 2⟩, ⟨64, 8128⟩, ⟨12800, 8192⟩, ⟨3, 4⟩]))) .sr .si 0 6 =
      [(1, 2), (64, 8128), (12800, 8192), (3, 4), (12800, -8192), (64, -8128)] := by decide +kernel

/-- V16, error corner: `STATUS = 0x42`. -/
theorem test_sym_overflow :
    (after (exec .sym (p1.storeCells .si 1 [-2147483648]))).statusWord = 0x42#32 := by decide +kernel

/-- V24: a transform of length 6 with rounding. -/
theorem test_ifft :
    cells (after (exec .ifft (withCells p2 .sr .si
      [⟨-1000, 0⟩, ⟨64, 8128⟩, ⟨12800, 8192⟩, ⟨0, 0⟩, ⟨12800, -8192⟩, ⟨64, -8128⟩]))) .ar .ai 0 6 =
      [(4121, 0), (-7001, 0), (-2292, 0), (4079, 0), (-2329, 0), (2422, 0)] := by decide +kernel

/-- V22: complex input, and the same input with `AI` ignored. -/
theorem test_fft :
    let s := withCells p1 .ar .ai [⟨1, 2⟩, ⟨3, 4⟩, ⟨5, 6⟩, ⟨7, 8⟩]
    cells (after (exec (.fft false) s)) .sr .si 0 4 = [(16, 20), (-8, 0), (-4, -4), (0, -8)] ∧
    cells (after (exec (.fft true) s)) .sr .si 0 4 = [(16, 0), (-4, 4), (-4, 0), (-4, -4)] := by decide +kernel

/-- P5: bin 0 is `2^31` and does not fit; with one sample less by 1 it fits, and bins round as P5 says. -/
theorem test_fft_overflow :
    (after (exec (.fft true) p5)).statusWord = 0x42#32 ∧
    cells (after (exec (.fft true) (p5.storeCells .ar 3 [536870911]))) .sr .si 0 4 =
      [(2147483647, 0), (0, -1), (1, 0), (0, 1)] := by decide +kernel

/-- V17, second case, in the three modes. -/
theorem test_unpack :
    let s := withCells p2 .sr .si [⟨0, 0⟩, ⟨63, 8129⟩, ⟨12800, 8193⟩]
    block (after (exec .unpack s)) 4 = [0x01#8, 0x7F#8, 0x7F#8, 0x7F#8] ∧
    block (after (exec .unpack { s with qmode := 1#2 })) 4 = [0x01#8, 0xC8#8, 0x7F#8, 0x80#8] ∧
    block (after (exec .unpack { s with qmode := 2#2 })) 4 = [0x01#8, 0xC8#8, 0x7F#8, 0x80#8] := by decide +kernel

/-- V17, negative input. -/
theorem test_unpack_negative :
    let s := withCells p1 .sr .si [⟨0, 0⟩, ⟨-20, -100⟩]
    block (after (exec .unpack s)) 2 = [0x00#8, 0xFE#8] ∧
    block (after (exec .unpack { s with qmode := 2#2 })) 2 = [0x00#8, 0x00#8] := by decide +kernel

/-- R120, example, and P1: the spectrum of the block and its samples. -/
theorem test_encode :
    cells (after (exec .encode p1)) .sr .si 0 4 = [(100, 0), (448, 576), (0, 0), (448, -576)] ∧
    cells (after (exec .encode p1)) .ar .ai 0 4 = [(249, 0), (-263, 0), (-199, 0), (313, 0)] := by decide +kernel

/-- R122, example: the block and the spectrum from the samples of P1. -/
theorem test_decode :
    let t := after (exec .decode (withCells (loaded standardTable4 2 64 100) .ar .ai
      [⟨249, 1⟩, ⟨-263, 1⟩, ⟨-199, 1⟩, ⟨313, 1⟩]))
    block t 2 = [0x07#8, 0x09#8] ∧
    cells t .sr .si 0 4 = [(100, 0), (448, 576), (0, 0), (448, -576)] := by decide +kernel

/-- R121, example: `MATCH = 2`; one changed byte is one match less. -/
theorem test_verify :
    (after (exec .verify p1Full)).matchCount = 2#11 ∧
    (after (exec .verify (p1Full.storeBytes bbAddr [8]))).matchCount = 1#11 := by decide +kernel

/-- R88, V41: NOP runs with illegal registers. -/
theorem test_nop : (after (exec .nop { State.reset with qmode := 3#2 })).statusWord = 0x02#32 := by decide

/-- R89: `STATUS` 0x26 becomes 0x02. -/
theorem test_clrerr :
    let s : State := { State.reset with err := .len, rej := true, done := true }
    s.statusWord = 0x26#32 ∧ (after (exec .clrerr s)).statusWord = 0x02#32 := by decide

/-- V41: `ERR_LEN` comes before `ERR_CFG`, and `QMODE = 3` stops UNPACK and DECODE but not VERIFY. -/
theorem test_checks :
    (after (exec .encode { p1 with len := 3#11, stepSize := 0#16 })).statusWord = 0x22#32 ∧
    (after (exec .unpack { p1Full with qmode := 3#2 })).statusWord = 0x32#32 ∧
    (after (exec .decode { p1Full with qmode := 3#2 })).statusWord = 0x32#32 ∧
    (after (exec .verify { p1Full with qmode := 3#2 })).statusWord = 0x02#32 := by decide +kernel

/-! ## The port -/

/-- V40: implemented bits. -/
theorem test_registers :
    (after (hostWrite 4 0xFFFFFFFF#32 .reset)).portWord 4 = 0x7FF#32 ∧
    (after (hostWrite 5 0x12345#32 .reset)).portWord 5 = 0x2345#32 ∧
    (after (hostWrite 6 0xFFFFFFFF#32 .reset)).portWord 6 = 0xFFFFFFFF#32 ∧
    (after (hostWrite 3 0xFFFFFFFE#32 .reset)).portWord 3 = 2#32 ∧
    State.reset.portWord 0 = 0x53434501#32 := by decide

/-- V40: offsets that hold nothing. -/
theorem test_unassigned :
    [0x0008, 0x0010, 0x0500, 0x0C02, 0x1402, 0x3402, 0x3800, 0x3FFF].all (fun o => portCell o == .unassigned) = true := by
  decide

/-- V42: NOP and the word 0x109 are turned away in the halted state, CLRERR is not. -/
theorem test_halted :
    let s : State := { State.reset with err := .len, done := true }
    (offer 0#32 s).statusWord = 0x26#32 ∧ (offer 0x109#32 s).statusWord = 0x26#32 ∧ (offer 9#32 s).statusWord = 0x21#32 := by
  decide

/-- P1's words of the block: `WR 0x0400, 0x00000907` is 7, 9, 0, 0. -/
theorem test_block_word : block (after (hostWrite 0x0400 0x907#32 .reset)) 4 = [7#8, 9#8, 0#8, 0#8] := by decide +kernel

/-! ## The table for 1026 -/

/-- V04: samples of the table, its symmetry and its sums. -/
theorem test_table1026 :
    standardTable1026.length = 1026 ∧ standardTable1026[1]? = some ⟨1073721690, -6575513⟩ ∧
    standardTable1026[171]? = some ⟨536870912, -929887697⟩ ∧ standardTable1026[256]? = some ⟨3287772, -1073736790⟩ ∧
    standardTable1026[513]? = some ⟨-1073741824, 0⟩ ∧ standardTable1026[769]? = some ⟨-3287772, 1073736790⟩ ∧
    standardTable1026[1025]? = some ⟨1073721690, 6575513⟩ ∧
    (standardTable1026.map Cpx.re).sum = 0 ∧ (standardTable1026.map Cpx.im).sum = 0 := by decide +kernel

/-! ## Machines with a standard table -/

/-- The table of V01 is the standard one for `N = 4`. -/
theorem test_table4_standard : IsStandardTable standardTable4 := by
  have h2 : 2 * Real.pi * 2 / 4 = Real.pi := by ring
  have h1 : 2 * Real.pi / 4 = Real.pi / 2 := by ring
  have h3 : 2 * Real.pi * 3 / 4 = Real.pi / 2 + Real.pi := by ring
  intro m hm
  have hm : m < 4 := hm
  interval_cases m <;>
    norm_num [standardTable4, h1, h2, h3, Real.cos_add_pi, Real.sin_add_pi]

/-- The standard table of length `n`, by rounding. -/
noncomputable def roundedTable (n : Nat) : List Cpx :=
  (List.range n).map fun m : Nat =>
    ⟨round ((2 : ℝ) ^ 30 * Real.cos (2 * Real.pi * m / n)), round (-((2 : ℝ) ^ 30 * Real.sin (2 * Real.pi * m / n)))⟩

@[simp] theorem roundedTable_length (n : Nat) : (roundedTable n).length = n := by simp [roundedTable]

theorem test_roundedTable_standard (n : Nat) : IsStandardTable (roundedTable n) := by
  intro m hm
  have he : (roundedTable n)[m] =
      ⟨round ((2 : ℝ) ^ 30 * Real.cos (2 * Real.pi * m / n)),
       round (-((2 : ℝ) ^ 30 * Real.sin (2 * Real.pi * m / n)))⟩ := by simp [roundedTable]
  rw [he, roundedTable_length]
  refine ⟨?_, ?_⟩
  · rw [abs_sub_comm]; exact abs_sub_round _
  · rw [← sub_neg_eq_add, abs_sub_comm]; exact abs_sub_round _

theorem in32_round {x : ℝ} (h : |x| ≤ 2 ^ 30) : in32 (round x) = true := by
  have h1 := abs_le.1 (abs_sub_round x)
  have h2 := abs_le.1 h
  have h3 : (round x : ℝ) ≤ ((2 ^ 30 + 1 : Int) : ℝ) := by push_cast; linarith [h1.1, h2.2]
  have h4 : ((-2 ^ 30 - 1 : Int) : ℝ) ≤ (round x : ℝ) := by push_cast; linarith [h1.2, h2.1]
  have h3 := Int.cast_le.1 h3
  have h4 := Int.cast_le.1 h4
  simp only [in32, Bool.and_eq_true, decide_eq_true_eq]
  norm_num at h3 h4 ⊢
  omega

theorem in32_roundedTable (n : Nat) : ∀ z ∈ roundedTable n, in32 z.re = true ∧ in32 z.im = true := by
  intro z hz
  obtain ⟨m, -, rfl⟩ := List.mem_map.1 hz
  have key : ∀ y : ℝ, |y| ≤ 1 → |(2 : ℝ) ^ 30 * y| ≤ 2 ^ 30 := fun y hy => by
    rw [abs_mul, abs_of_pos (by positivity)]; nlinarith
  exact ⟨in32_round (key _ (Real.abs_cos_le_one _)), in32_round (by rw [abs_neg]; exact key _ (Real.abs_sin_le_one _))⟩

/-- The 1024-byte zero block, the rounded table for 1026 points loaded. -/
noncomputable def zeroBlock (sent : Word) : State :=
  (loaded (roundedTable 1026) 1024 3 sent).storeBytes bbAddr (List.replicate 1024 0#8)

theorem zeroBlock_table (sent : Word) : (zeroBlock sent).table = roundedTable 1026 := by
  have hlen := roundedTable_length 1026
  have hre : ∀ v ∈ (roundedTable 1026).map Cpx.re, in32 v = true := fun v hv => by
    obtain ⟨z, hz, rfl⟩ := List.mem_map.1 hv; exact (in32_roundedTable _ z hz).1
  have him : ∀ v ∈ (roundedTable 1026).map Cpx.im, in32 v = true := fun v hv => by
    obtain ⟨z, hz, rfl⟩ := List.mem_map.1 hv; exact (in32_roundedTable _ z hz).2
  have hN : (zeroBlock sent).lenN = 1026 := rfl
  have hb : (List.replicate 1024 0#8).length ≤ 0x1000 := by rw [List.length_replicate]; omega
  have hc : ((roundedTable 1026).map Cpx.re).length = 1026 ∧ ((roundedTable 1026).map Cpx.im).length = 1026 := by
    rw [List.length_map, List.length_map, hlen]; exact ⟨rfl, rfl⟩
  rw [State.table, hN, State.complexCells]
  refine List.ext_getElem (by rw [List.length_map, List.length_range, hlen]) fun j hj hj' => ?_
  simp only [List.length_map, List.length_range] at hj
  rw [List.getElem_map, List.getElem_range, zeroBlock, cell_storeBlock _ _ hb, cell_storeBlock _ _ hb, loaded,
    cell_storeCells_other _ (by decide) _ _ _ (by rw [hc.2]; omega) (by omega), cell_storeCells _ _ _ _ _ hre,
    cell_storeCells _ _ _ _ _ him, if_pos (by rw [hc.1]; omega), if_pos (by rw [hc.2]; omega)]
  simp [List.getD_eq_getElem?_getD, List.getElem?_map, List.getElem?_eq_getElem hj']

/-! ## The hypotheses of the statements can be met: one witness each -/

theorem test_witness_ResetEventGivesResetState : ({ p1 with events := [.reset] } : State).events = .reset :: [] := rfl

/-- The invariant of a machine that holds the memory of `small`. -/
theorem inv_of_small {s : State} (hm : s.mem = small.mem) (hb : ¬(s.busy = true ∧ s.done = true))
    (hc : s.busy = true → s.err ≠ .noError → s.cur = 0x00000009#32) (hn : s.matchCount.toNat ≤ Config.lmax)
    (he : s.epoch < s.draws) : Inv s := by
  have h : small.mem.wf = true ∧ ∀ c ∈ small.mem, memoryOffset (c.1 / 4) = true := by decide +kernel
  exact ⟨hm ▸ h.1, fun c hcm => h.2 c (hm ▸ hcm), hb, hc, hn, he⟩

theorem inv_running_small : Inv (running 0x01#32 small) :=
  inv_of_small rfl (by decide) (by decide) (by decide) (by decide)

theorem test_witness_StepKeepsInvariant :
    Inv (running 0x01#32 small) ∧ step (running 0x01#32 small) = .next (after (step (running 0x01#32 small))) :=
  ⟨inv_running_small, next_after (by decide +kernel)⟩

theorem test_witness_StepStopsOnlyOutsideTheWindow :
    step { p1 with events := [.read 0x4000] } = .fault .outsideWindow ∧
    step { p1 with events := [.write 0x4000 1#32] } = .fault .outsideWindow ∧
    goesOn (step { p1 with events := [.read 0x3FFF] }) = true := ⟨rfl, rfl, by decide +kernel⟩

/-- A list with a reset; and lists without one, on a busy engine and on one that a command is offered to. -/
theorem test_witness_EveryAcceptedCommandCompletes :
    InWindow [.write 0x3FFF 1#32, .read 0x0000, .engine, .reset] ∧
    (InWindow (running 0x01#32 small).events ∧ Event.reset ∉ (running 0x01#32 small).events ∧
      (running 0x01#32 small).busy = true) ∧
    (InWindow [.write 0x0001 6#32, .read 2] ∧ Event.reset ∉ [Event.write 0x0001 6#32, .read 2] ∧
      State.reset.err = .noError ∧ ∃ w, Event.write 0x0001 w ∈ [Event.write 0x0001 6#32, .read 2]) := by
  simp [InWindow, Config.windowSize, running, State.reset]

theorem test_witness_StepRunsTheDecodedCommand :
    (running 0x104#32 p1).busy = true ∧ decode (running 0x104#32 p1).cur = .ok (.fft true) ∧
    (running 0x104#32 p1).events = .engine :: [] ∧
    ({ running 0x104#32 p1 with events := [] } : State).events = [] := ⟨rfl, rfl, rfl, rfl⟩

theorem test_witness_OfferedCommandIsExecuted :
    (∃ s : State, s.busy = false ∧ s.err = .noError ∧ s.events = [.write 0x0001 (encode .encode), .engine]) ∧
    (∃ s : State, s.busy = false ∧ s.err = .vod ∧ s.events = [.write 0x0001 (encode .clrerr), .engine]) :=
  ⟨⟨{ p1 with events := [.write 0x0001 (encode .encode), .engine] }, rfl, rfl, rfl⟩,
   ⟨{ p1 with err := .vod, events := [.write 0x0001 (encode .clrerr), .engine] }, rfl, rfl, rfl⟩⟩

theorem test_witness_IllegalCommandRaisesErrCmd :
    (running 0x0A#32 p1).busy = true ∧ decode (running 0x0A#32 p1).cur = .error .opcode ∧
    (running 0x0A#32 p1).events = .engine :: [] := ⟨rfl, rfl, rfl⟩

theorem test_witness_IllegalLenRaisesErrLen :
    usesLen .sym = true ∧
    [0#11, 1#11, 3#11, 1023#11, 1025#11, 1026#11, 2047#11].all (fun n =>
      decide (¬(n.toNat % 2 = 0 ∧ 2 ≤ n.toNat ∧ n.toNat ≤ 1024))) = true ∧
    ({ State.reset with len := 2047#11 } : State).len = 2047#11 := by decide +kernel

theorem test_witness_IllegalConfigRaisesErrCfg :
    [2#11, 1024#11].all (fun n => decide (n.toNat % 2 = 0 ∧ 2 ≤ n.toNat ∧ n.toNat ≤ 1024)) = true ∧
    (usesStep .pack = true ∧ State.reset.stepSize = 0#16) ∧
    (usesMode .decode = true ∧ ({ State.reset with qmode := 3#2 } : State).qmode = 3#2) := by decide +kernel

theorem test_witness_TransformsIgnoreStepAndMode :
    goesOn (exec .sym p1Full) = true ∧ goesOn (exec .sym { p1Full with stepSize := 0#16, qmode := 3#2 }) = true := by
  decide +kernel

/-- The largest table entries over the largest bins: an IFFT that overflows. -/
def wild : State :=
  withCells (loaded (List.replicate 4 ⟨2147483647, 0⟩) 2 1 0) .sr .si (List.replicate 4 ⟨2147483647, 0⟩)

theorem test_witness_OverflowRaisesErrVod :
    (wild.lenLegal = true ∧ ∃ n, n < wild.lenN ∧ (inverseCell wild.lenN (spectrumOf wild) (tableOf wild) n).fits = false) ∧
    (p5.lenLegal = true ∧ p5.stepSize ≠ 0#16 ∧ p5.qmode ≠ 3#2 ∧
      (∃ j, j < p5.lenN ∧ (forwardCell p5.lenN (fftInput false p5) (tableOf p5) j).fits = false) ∧
      ∃ j, j < p5.lenN ∧ (forwardCell p5.lenN (realSamplesOf p5) (tableOf p5) j).fits = false) := by
  have h : wild.lenLegal = true ∧ 0 < wild.lenN ∧ (inverseCell wild.lenN (spectrumOf wild) (tableOf wild) 0).fits = false := by
    decide +kernel
  have h' : p5.lenLegal = true ∧ p5.stepSize ≠ 0#16 ∧ p5.qmode ≠ 3#2 ∧ 0 < p5.lenN ∧
      (forwardCell p5.lenN (fftInput false p5) (tableOf p5) 0).fits = false ∧
      (forwardCell p5.lenN (realSamplesOf p5) (tableOf p5) 0).fits = false := by decide +kernel
  exact ⟨⟨h.1, 0, h.2⟩, h'.1, h'.2.1, h'.2.2.1, ⟨0, h'.2.2.2.1, h'.2.2.2.2.1⟩, ⟨0, h'.2.2.2.1, h'.2.2.2.2.2⟩⟩

/-- A halted machine that runs CLRERR. -/
def halted : State := { small with err := .len, busy := true, done := false, cur := 0x09#32, events := [.engine] }

theorem inv_halted : Inv halted := inv_of_small rfl (by decide) (by decide) (by decide) (by decide)

theorem test_witness_HaltedLeftOnlyByClrerrOrReset :
    halted.err ≠ .noError ∧ step halted = .next (after (step halted)) ∧ (after (step halted)).err = .noError ∧
    Inv halted ∧
    (after (step { halted with events := [.reset] })).err = .noError ∧
    (after (step { halted with events := [.read 2] })).err = .len :=
  ⟨by decide, rfl, rfl, inv_halted, rfl, rfl⟩

theorem test_witness_OnlyVerifyWritesMatch :
    step (running 0x08#32 p1Full) = .next (after (step (running 0x08#32 p1Full))) ∧
    (after (step (running 0x08#32 p1Full))).matchCount ≠ (running 0x08#32 p1Full).matchCount ∧
    (after (step { p1 with matchCount := 5, events := [.reset] })).matchCount ≠ 5 :=
  ⟨next_after (by decide +kernel), by decide +kernel, by decide +kernel⟩

theorem test_witness_CommandsKeepTheRegisters :
    exec .nop p1 = .next (after (exec .nop p1)) ∧ exec .verify p1Full = .next (after (exec .verify p1Full)) ∧
    exec .clrerr halted = .next (after (exec .clrerr halted)) :=
  ⟨rfl, next_after (by decide +kernel), rfl⟩

theorem test_witness_CommandsWriteOnlyTheirCells :
    exec .pack small = .next (after (exec .pack small)) ∧ ¬Writes .pack small (4 * (0x1800 + 3)) ∧
    Writes .pack small (4 * 0x1800 + 11) :=
  ⟨next_after (by decide +kernel), by simp [Writes, inCells, Region.base]; decide +kernel,
   by left; constructor <;> decide +kernel⟩

theorem test_witness_PackAssemblesTheHead :
    p1.lenLegal = true ∧ p1.stepSize ≠ 0#16 ∧ ({ p1 with len := 1024 } : State).lenLegal = true := by decide +kernel

theorem test_witness_SymMirrorsTheInterior :
    (p1Full.lenLegal = true ∧ ∀ j, 1 ≤ j → j ≤ p1Full.lenK → p1Full.cell .si j ≠ -2 ^ 31) ∧
    (∃ j, 1 ≤ j ∧ j ≤ (p1Full.storeCells .si 1 [-2147483648]).lenK ∧
      (p1Full.storeCells .si 1 [-2147483648]).cell .si j = -2 ^ 31) := by
  refine ⟨⟨by decide +kernel, fun j h1 h2 => ?_⟩, 1, by decide, by decide +kernel, by decide +kernel⟩
  obtain rfl : j = 1 := le_antisymm h2 h1
  decide +kernel

theorem test_witness_IfftComputesTheInverse :
    p1Full.lenLegal = true ∧
    ∀ n, n < p1Full.lenN → (inverseCell p1Full.lenN (spectrumOf p1Full) (tableOf p1Full) n).fits = true :=
  by decide +kernel

theorem test_witness_FftComputesTheForward (r : Bool) :
    p1Full.lenLegal = true ∧
    ∀ j, j < p1Full.lenN → (forwardCell p1Full.lenN (fftInput r p1Full) (tableOf p1Full) j).fits = true :=
  by cases r <;> decide +kernel

/-- These contain the hypotheses of `VerifyCountsTheMatches`. -/
theorem test_witness_DecodeRecoversTheBlock :
    p1Full.lenLegal = true ∧ p1Full.stepSize ≠ 0#16 ∧ SelectsMode p1Full .satS8 ∧
    ∀ j, j < p1Full.lenN → (forwardCell p1Full.lenN (realSamplesOf p1Full) (tableOf p1Full) j).fits = true :=
  ⟨rfl, by decide, .inl ⟨rfl, rfl⟩, (test_witness_FftComputesTheForward true).2⟩

theorem test_witness_UnpackQuantizesTheInterior :
    p1Full.lenLegal = true ∧ p1Full.stepSize ≠ 0#16 ∧ SelectsMode p1Full .satS8 ∧
    SelectsMode { p1Full with qmode := 1#2 } .wrapS8 ∧ SelectsMode { p1Full with qmode := 2#2 } .satU8 :=
  ⟨rfl, by decide, .inl ⟨rfl, rfl⟩, .inr (.inl ⟨rfl, rfl⟩), .inr (.inr ⟨rfl, rfl⟩)⟩

theorem test_witness_EncodeTransformsTheBlock :
    p1.lenLegal = true ∧ p1.stepSize ≠ 0#16 ∧
    ∀ n, n < p1.lenN → (inverseCell p1.lenN (blockSpectrum p1) (tableOf p1) n).fits = true :=
  by decide +kernel

theorem test_witness_EncodeNeverOverflows :
    p1.lenLegal = true ∧ p1.stepSize ≠ 0#16 ∧ ({ p1 with len := 1024 } : State).lenLegal = true := by decide +kernel

theorem test_witness_EncodeIsPackSymIfft :
    ∃ a b c, p1.err = .noError ∧ exec .pack p1 = .next a ∧ exec .sym a = .next b ∧ exec .ifft b = .next c ∧
      c.err = .noError :=
  ⟨_, _, _, rfl, next_after (by decide +kernel), next_after (by decide +kernel), next_after (by decide +kernel),
   by decide +kernel⟩

theorem test_witness_DecodeIsFftUnpack :
    ∃ a b, p1Full.err = .noError ∧ exec (.fft true) p1Full = .next a ∧ exec .unpack a = .next b ∧ b.err = .noError :=
  ⟨_, _, rfl, next_after (by decide +kernel), next_after (by decide +kernel), by decide +kernel⟩

theorem test_witness_PackThenSymIsHermitian :
    p2.lenLegal = true ∧ p2.stepSize ≠ 0#16 := by decide +kernel

/-- What P1's table, spectrum, samples and block are. -/
theorem p1Full_data :
    (∀ m, m < 4 → tableOf p1Full m = cpxAt standardTable4 m) ∧
    (∀ j, j < 4 → spectrumOf p1Full j = cpxAt [⟨100, 0⟩, ⟨448, 576⟩, ⟨0, 0⟩, ⟨448, -576⟩] j) ∧
    (∀ n, n < 4 → samplesOf p1Full n = cpxAt [⟨249, 0⟩, ⟨-263, 0⟩, ⟨-199, 0⟩, ⟨313, 0⟩] n) := by decide +kernel

theorem p1Full_table (m : Nat) (hm : m < 4) :
    p1Full.cell .twr m = (cpxAt standardTable4 m).re ∧ p1Full.cell .twi m = (cpxAt standardTable4 m).im :=
  Cpx.mk.inj (p1Full_data.1 m hm)

theorem p1Full_spectrum (j : Nat) (hj : j < 4) :
    p1Full.cell .sr j = (cpxAt [⟨100, 0⟩, ⟨448, 576⟩, ⟨0, 0⟩, ⟨448, -576⟩] j).re ∧
    p1Full.cell .si j = (cpxAt [⟨100, 0⟩, ⟨448, 576⟩, ⟨0, 0⟩, ⟨448, -576⟩] j).im :=
  Cpx.mk.inj (p1Full_data.2.1 j hj)

theorem symmetricTable_p1Full : SymmetricTable p1Full := by
  refine ⟨(p1Full_table 0 (by decide)).2, fun m h1 h2 => ?_⟩
  have h2 : m ≤ 3 := h2
  have hm := p1Full_table m (by omega)
  have hn := p1Full_table (4 - m) (by omega)
  rw [show p1Full.lenN = 4 from rfl, hm.1, hm.2, hn.1, hn.2]
  interval_cases m <;> decide

theorem hermitian_p1Full : Hermitian p1Full := by
  refine ⟨(p1Full_spectrum 0 (by decide)).2, (p1Full_spectrum 2 (by decide)).2, fun j h1 h2 => ?_⟩
  have h2 : j ≤ 1 := h2
  obtain rfl : j = 1 := by omega
  have h3 := p1Full_spectrum 3 (by decide)
  have h1 := p1Full_spectrum 1 (by decide)
  exact ⟨h3.1.trans h1.1.symm, h3.2.trans (by rw [h1.2]; rfl)⟩

theorem goesOn_p1Full :
    (goesOn (exec .ifft p1Full) = true ∧ (after (exec .ifft p1Full)).err = .noError) ∧
    (goesOn (exec .encode p1Full) = true ∧ (after (exec .encode p1Full)).err = .noError) ∧
    goesOn (exec (.fft false) p1Full) = true ∧ goesOn (exec .verify p1Full) = true := by decide +kernel

theorem test_witness_HermitianSpectrumGivesRealSamples :
    ∃ t, p1Full.lenLegal = true ∧ SymmetricTable p1Full ∧ Hermitian p1Full ∧ p1Full.err = .noError ∧
      exec .ifft p1Full = .next t ∧ t.err = .noError :=
  ⟨_, rfl, symmetricTable_p1Full, hermitian_p1Full, rfl, next_after goesOn_p1Full.1.1, goesOn_p1Full.1.2⟩

theorem test_witness_EncodeGivesRealSamples :
    ∃ t, p1Full.lenLegal = true ∧ p1Full.stepSize ≠ 0#16 ∧ p1Full.err = .noError ∧
      exec .encode p1Full = .next t ∧ t.err = .noError ∧ SymmetricTable p1Full :=
  ⟨_, rfl, by decide, rfl, next_after goesOn_p1Full.2.1.1, goesOn_p1Full.2.1.2, symmetricTable_p1Full⟩

theorem holdsStandardTable_p1Full : HoldsStandardTable p1Full := by
  have h : p1Full.table = (List.range 4).map (cpxAt standardTable4) :=
    List.map_congr_left fun m hm => p1Full_data.1 m (List.mem_range.1 hm)
  rw [HoldsStandardTable, h]
  exact test_table4_standard

theorem test_witness_InverseThenForwardWithinBound :
    p1Full.lenLegal = true ∧ p1Full.err = .noError ∧ HoldsStandardTable p1Full ∧ Hermitian p1Full ∧
    (∀ j, j < p1Full.lenN → |p1Full.cell .sr j| + |p1Full.cell .si j| ≤ 1024) ∧ (1024 : Int) ≤ 2 ^ 30 := by
  refine ⟨rfl, rfl, holdsStandardTable_p1Full, hermitian_p1Full, fun j hj => ?_, by norm_num⟩
  have hj : j < 4 := hj
  rw [(p1Full_spectrum j hj).1, (p1Full_spectrum j hj).2]
  interval_cases j <;> decide

theorem test_witness_EncodeThenDecodeReturnsTheBlock :
    p1Full.lenLegal = true ∧ p1Full.err = .noError ∧ HoldsStandardTable p1Full ∧ SelectsMode p1Full .satS8 ∧
    |p1Full.sent.toInt| ≤ 510 * p1Full.stepSize.toNat ∧
    (p1Full.stepSize.toNat : ℚ) > 2 * errorBound p1Full.lenN (510 * p1Full.stepSize.toNat) := by
  refine ⟨rfl, rfl, holdsStandardTable_p1Full, .inl ⟨rfl, rfl⟩, by decide, ?_⟩
  rw [show p1Full.stepSize.toNat = 64 from rfl, show p1Full.lenN = 4 from rfl]
  norm_num [errorBound]

/-- For both zero-block statements, whatever the sentinel. -/
theorem test_witness_ZeroBlock (sent : Word) :
    (zeroBlock sent).len = 1024#11 ∧ (zeroBlock sent).err = .noError ∧ HoldsStandardTable (zeroBlock sent) ∧
    SelectsMode (zeroBlock sent) .satS8 ∧ 3 ≤ (zeroBlock sent).stepSize.toNat ∧ (zeroBlock sent).sent = sent ∧
    ∀ i, i < 1024 → (zeroBlock sent).bb i = 0#8 := by
  refine ⟨rfl, rfl, ?_, .inl ⟨rfl, rfl⟩, le_refl 3, rfl, fun i hi => ?_⟩
  · rw [HoldsStandardTable, zeroBlock_table]; exact test_roundedTable_standard 1026
  · rw [zeroBlock, bb_storeBytes, List.length_replicate, if_pos hi, List.getD_eq_getElem?_getD,
      List.getElem?_replicate_of_lt hi, Option.getD_some]

/-- The two ranges of the sentinel at their ends: bin 0, `1026 * rdiv(SENT, 1026)`, just fits and just does not. -/
theorem test_witness_ZeroBlockForModerateSentinel :
    (2147483150#32).toInt = 2147483150 ∧ (BitVec.ofInt 32 (-2147483151)).toInt = -2147483151 ∧
    (2147483151#32).toInt = 2147483151 ∧ (BitVec.ofInt 32 (-2147483152)).toInt = -2147483152 ∧
    in32 (1026 * rdiv 2147483150 1026) = true ∧ in32 (1026 * rdiv (-2147483151) 1026) = true ∧
    in32 (1026 * rdiv 2147483151 1026) = false ∧ in32 (1026 * rdiv (-2147483152) 1026) = false := by decide +kernel

theorem test_witness_IfftCannotOverflowOnBoundedData :
    ∃ t, p1Full.lenLegal = true ∧ p1Full.err = .noError ∧
      (∀ m, m < p1Full.lenN → 2 * (|p1Full.cell .twr m| + |p1Full.cell .twi m|) ≤ 3 * 2 ^ 30) ∧
      (∀ j, j < p1Full.lenN → |p1Full.cell .sr j| + |p1Full.cell .si j| ≤ 2 ^ 30) ∧ exec .ifft p1Full = .next t := by
  refine ⟨_, rfl, rfl, fun m hm => ?_, fun m hm => ?_, next_after goesOn_p1Full.1.1⟩
  · have hm : m < 4 := hm
    rw [(p1Full_table m hm).1, (p1Full_table m hm).2]
    interval_cases m <;> decide
  · have hm : m < 4 := hm
    rw [(p1Full_spectrum m hm).1, (p1Full_spectrum m hm).2]
    interval_cases m <;> decide

theorem test_witness_FftCannotOverflowOnBoundedData :
    ∃ t, p1Full.lenLegal = true ∧ p1Full.err = .noError ∧
      (∀ m, m < p1Full.lenN → |p1Full.cell .twr m| ≤ 2 ^ 30 ∧ |p1Full.cell .twi m| ≤ 2 ^ 30) ∧
      (∑ n ∈ Finset.range p1Full.lenN, (|(fftInput false p1Full n).re| + |(fftInput false p1Full n).im|)) * 2 ^ 30 ≤
        2 ^ 60 ∧
      exec (.fft false) p1Full = .next t := by
  refine ⟨_, rfl, rfl, fun m hm => ?_, by decide +kernel, next_after goesOn_p1Full.2.2.1⟩
  have hm : m < 4 := hm
  rw [(p1Full_table m hm).1, (p1Full_table m hm).2]
  interval_cases m <;> decide

/-- `p1Full` with another word after the table's entry `N - 1`. -/
def p1Beyond : State := p1Full.storeCells .twr 4 [77]

theorem p1Beyond_cell {r : Region} {j : Nat} (hj : j < 4) : p1Beyond.cell r j = p1Full.cell r j := by
  rw [p1Beyond]
  by_cases hr : r = .twr
  · rw [hr, cell_storeCells _ _ _ _ _ (by decide), if_neg (by omega)]
  · exact cell_storeCells_other _ hr _ _ _ (by decide) (by omega)

theorem test_witness_TransformsReadOnlyBelowN :
    p1Beyond.len = p1Full.len ∧ p1Full.err = .noError ∧ p1Beyond.err = .noError ∧
    (∀ m, m < p1Full.lenN → tableOf p1Beyond m = tableOf p1Full m) ∧
    (∀ j, j < p1Full.lenN → spectrumOf p1Beyond j = spectrumOf p1Full j) ∧
    (∀ n, n < p1Full.lenN → samplesOf p1Beyond n = samplesOf p1Full n) ∧
    goesOn (exec .ifft p1Beyond) = true ∧ goesOn (exec (.fft false) p1Beyond) = true := by
  have h : goesOn (exec .ifft p1Beyond) = true ∧ goesOn (exec (.fft false) p1Beyond) = true := by decide +kernel
  have hl : p1Beyond.len = 2#11 ∧ p1Full.len = 2#11 := ⟨rfl, rfl⟩
  refine ⟨hl.1.trans hl.2.symm, rfl, rfl, fun m hm => ?_, fun m hm => ?_, fun m hm => ?_, h.1, h.2⟩
  · rw [tableOf, p1Beyond_cell hm, p1Beyond_cell hm, ← tableOf]
  · rw [spectrumOf, p1Beyond_cell hm, p1Beyond_cell hm, ← spectrumOf]
  · rw [samplesOf, p1Beyond_cell hm, p1Beyond_cell hm, ← samplesOf]

/-- `p1Full` with other imaginary samples. -/
def p1Stale : State := p1Full.storeCells .ai 0 [1, 2, 3, 4]

theorem p1Stale_cell {r : Region} (hr : r ≠ .ai) {j : Nat} (hj : j < 4) : p1Stale.cell r j = p1Full.cell r j :=
  cell_storeCells_other _ hr _ _ _ (by decide) (by omega)

theorem test_witness_RealTransformIgnoresImaginarySamples :
    p1Stale.len = p1Full.len ∧ p1Stale.stepSize = p1Full.stepSize ∧ p1Stale.qmode = p1Full.qmode ∧
    p1Stale.matchCount = p1Full.matchCount ∧ p1Full.err = .noError ∧ p1Stale.err = .noError ∧
    (∀ m, m < p1Full.lenN → tableOf p1Stale m = tableOf p1Full m) ∧
    (∀ n, n < p1Full.lenN → p1Stale.cell .ar n = p1Full.cell .ar n) ∧ (∀ b, b < p1Full.lenL → p1Stale.bb b = p1Full.bb b) ∧
    goesOn (exec .verify p1Stale) = true := by
  have h : goesOn (exec .verify p1Stale) = true := by decide +kernel
  have hr : (p1Stale.len = 2#11 ∧ p1Full.len = 2#11) ∧ (p1Stale.stepSize = 64#16 ∧ p1Full.stepSize = 64#16) ∧
      (p1Stale.qmode = 0#2 ∧ p1Full.qmode = 0#2) ∧ (p1Stale.matchCount = 0#11 ∧ p1Full.matchCount = 0#11) :=
    ⟨⟨rfl, rfl⟩, ⟨rfl, rfl⟩, ⟨rfl, rfl⟩, ⟨rfl, rfl⟩⟩
  refine ⟨hr.1.1.trans hr.1.2.symm, hr.2.1.1.trans hr.2.1.2.symm, hr.2.2.1.1.trans hr.2.2.1.2.symm,
    hr.2.2.2.1.trans hr.2.2.2.2.symm, rfl, rfl, fun m hm => ?_, fun n hn => p1Stale_cell (by decide) hn, fun b hb => ?_, h⟩
  · rw [tableOf, p1Stale_cell (by decide) hm, p1Stale_cell (by decide) hm, ← tableOf]
  · exact bb_storeCells _ _ _ _ _ (lt_trans hb (by decide))

/-- For `RdivIsTheNearestInteger`, `QuantizerInvertsTheDequantizer`, `NarrowingStandsForItsTable` (both ends of its range)
and `TransformSumsFitTheAccumulator`. -/
theorem test_witness_arithmetic :
    (State.reset.qmode = 0#2 ∧ ({ State.reset with qmode := 3#2 } : State).qmode = 3#2) ∧
    (0 : Int) < 1 ∧ p1.stepSize ≠ 0#16 ∧ ((0 : Int) ≤ 0 ∧ (127 : Int) ≤ 127) ∧ (1026 : Nat) ≤ 1026 := by decide +kernel

/-- For `RegistersReadBackImplementedBits` (each register), `MemoryWordsReadBack` (the first and the last word of each data
memory, and a write to the last entry of `SI`) and `BlockWordsAreLittleEndian`. -/
theorem test_witness_RegistersAndMemoryReadBack :
    p1.busy = false ∧ (∀ off ∈ [3, 4, 5, 6], 0x0003 ≤ off ∧ off ≤ 0x0006) ∧
    (∀ off ∈ [0x0400, 0x04FF, 0x0800, 0x0C01, 0x1000, 0x1401, 0x1800, 0x1C01, 0x2000, 0x2401, 0x2800, 0x2C01, 0x3000, 0x3401],
      memoryOffset off = true) ∧
    (1025 < 1026 ∧ (after (step { small with events := [.write (0x2000 + 1025) 0xFFFFFFFF#32] })).cell .si 1025 = -1) ∧
    (after (step { small with events := [.write 0x0007 9#32] })).matchCount = small.matchCount ∧
    ({ p1 with events := [.write 0x0400 1#32] } : State).events = .write (0x0400 + 0) 1#32 :: [] ∧ 255 < 256 := by
  decide +kernel

/-- Also for `UnassignedOffsetsOfTheMap`: the ends of each unassigned range. -/
theorem test_witness_UnassignedOffsetsHoldNothing :
    ∀ off ∈ [0x0008, 0x03FF, 0x0500, 0x07FF, 0x0C02, 0x0FFF, 0x3402, 0x3800, 0x3FFF],
      off < Config.windowSize ∧ portCell off = .unassigned := by decide +kernel

/-- For `BusyGateRejectsWrites`, `HostCannotDisturbARunningCommand` and `ReadsWhileBusy`: a busy machine, a gated word, an
ignored write, and both kinds of read. -/
theorem test_witness_BusyPort :
    (running 0x06#32 p1).busy = true ∧ memoryOffset 0x3401 = true ∧ memoryOffset 0x0400 = true ∧
    goesOn (step { running 0x06#32 p1 with events := [.write 0x3401 5#32] }) = true ∧
    goesOn (step { running 0x06#32 p1 with events := [.write 0x0007 5#32] }) = true ∧
    goesOn (step { running 0x06#32 p1 with events := [.read 0x0006] }) = true ∧
    goesOn (step { running 0x06#32 p1 with events := [.read 0x0007] }) = true := by decide +kernel

theorem test_witness_IdleReadsHaveNoSideEffect :
    p1.busy = false ∧ 0x3FFF < Config.windowSize ∧ ({ p1 with events := [.read 0x3FFF] } : State).events = .read 0x3FFF :: [] := by
  decide +kernel

theorem test_witness_OfferIsAcceptedOrRejected :
    ({ p1 with events := [.write 0x0001 9#32] } : State).events = .write 0x0001 9#32 :: [] := rfl

theorem test_witness_LdbLoadsTheBlock :
    p1.busy = false ∧ [7#8, 9#8, 0#8, 0#8].length % 4 = 0 ∧ [7#8, 9#8, 0#8, 0#8].length ≤ 1024 ∧
    ({ p1 with events := scriptEvents [.ldb [7#8, 9#8, 0#8, 0#8]] } : State).events =
      scriptEvents [.ldb [7#8, 9#8, 0#8, 0#8]] := by decide +kernel

end Sys2Proof.Tests
end

/-! # The arithmetic of spec/00_scope.md

Rounded division (R8) and the size of the transforms' sums (R9). -/

namespace Sys2Proof.Machine

open Sys2Proof.Safety

/-! ## Rounded division -/

/-- The interval of `rdiv_bounds` has length `2 * d`, so it holds one value `2 * d * q` only. -/
theorem rdiv_eq_iff {d : Int} (hd : 0 < d) (a q : Int) :
    rdiv a d = q ↔ 2 * d * q - d ≤ 2 * a ∧ 2 * a < 2 * d * q + d := by
  obtain ⟨hlo, hhi⟩ := rdiv_bounds hd a
  constructor
  · rintro rfl
    exact ⟨hlo, hhi⟩
  · rintro ⟨qlo, qhi⟩
    have hle : rdiv a d < q + 1 := lt_of_mul_lt_mul_left (by linarith : 2 * d * rdiv a d < 2 * d * (q + 1)) (by omega)
    have hge : q < rdiv a d + 1 := lt_of_mul_lt_mul_left (by linarith : 2 * d * q < 2 * d * (rdiv a d + 1)) (by omega)
    omega

/-- The integer division of `rdiv` is the floor of the rational quotient, as R8 writes it. -/
theorem rdiv_eq_floor {d : Int} (hd : 0 < d) (a : Int) :
    rdiv a d = ⌊((2 * a + d : Int) : ℚ) / ((2 * d : Int) : ℚ)⌋ := by
  lift d to ℕ using hd.le
  exact_mod_cast (Rat.floor_intCast_div_natCast (2 * a + d) (2 * d)).symm

/-- Settles O44: the two forms of R8. -/
theorem rdivIsTheNearestInteger : Obligations.RdivIsTheNearestInteger :=
  fun a _ hd => ⟨rdiv_eq_floor hd a, rdiv_eq_iff hd a⟩

/-! ## The size of the transforms' sums -/

/-- Both components have magnitude at most `B`. -/
def Cpx.Within (B : Int) (x : Cpx) : Prop := |x.re| ≤ B ∧ |x.im| ≤ B

/-- A product of two bounded values: each component is a sum or a difference of two products. -/
theorem cmul_within {A B : Int} {x t : Cpx} (hx : x.Within A) (ht : t.Within B) : (cmul x t).Within (2 * (A * B)) := by
  obtain ⟨hxr, hxi⟩ := hx
  obtain ⟨htr, hti⟩ := ht
  have product {a b : Int} (ha : |a| ≤ A) (hb : |b| ≤ B) : |a * b| ≤ A * B := by
    rw [abs_mul]
    exact mul_le_mul ha hb (abs_nonneg b) ((abs_nonneg a).trans ha)
  constructor
  · calc |x.re * t.re - x.im * t.im| ≤ |x.re * t.re| + |x.im * t.im| := abs_sub _ _
      _ ≤ 2 * (A * B) := by linarith [product hxr htr, product hxi hti]
  · calc |x.re * t.im + x.im * t.re| ≤ |x.re * t.im| + |x.im * t.re| := abs_add_le _ _
      _ ≤ 2 * (A * B) := by linarith [product hxr hti, product hxi htr]

/-- A sum of `n` terms of magnitude at most `B` has magnitude at most `n * B`. -/
theorem abs_sum_range_le {B : Int} (n : Nat) {f : Nat → Int} (hf : ∀ i, |f i| ≤ B) :
    |∑ i ∈ Finset.range n, f i| ≤ n * B :=
  calc |∑ i ∈ Finset.range n, f i| ≤ ∑ i ∈ Finset.range n, |f i| := Finset.abs_sum_le_sum_abs _ _
    _ ≤ n * B := by simpa using Finset.sum_le_card_nsmul (Finset.range n) (fun i => |f i|) B fun i _ => hf i

section
variable {A B : Int} {x t : Nat → Cpx}

theorem abs_sumRe_le (n : Nat) (hx : ∀ i, (x i).Within A) (ht : ∀ m, (t m).Within B) (index : Nat → Nat) :
    |sumRe n x t index| ≤ n * (2 * (A * B)) :=
  abs_sum_range_le n fun i => (cmul_within (hx i) (ht (index i))).1

theorem abs_sumIm_le (n : Nat) (hx : ∀ i, (x i).Within A) (ht : ∀ m, (t m).Within B) (index : Nat → Nat) :
    |sumIm n x t index| ≤ n * (2 * (A * B)) :=
  abs_sum_range_le n fun i => (cmul_within (hx i) (ht (index i))).2

end

/-- Every cell of the machine is a signed 32-bit integer (R7). -/
theorem abs_cell_le (s : State) (r : Region) (j : Nat) : |s.cell r j| ≤ 2 ^ 31 := by
  obtain ⟨hlo, hhi⟩ := in32_iff.1 (in32_cell s r j)
  exact abs_le.2 ⟨hlo, by omega⟩

theorem spectrumOf_within (s : State) (j : Nat) : (spectrumOf s j).Within (2 ^ 31) :=
  ⟨abs_cell_le s .sr j, abs_cell_le s .si j⟩

theorem tableOf_within (s : State) (m : Nat) : (tableOf s m).Within (2 ^ 31) :=
  ⟨abs_cell_le s .twr m, abs_cell_le s .twi m⟩

/-- FFT's sample, with the imaginary part read (`R = 0`) or taken as 0 (`R = 1`). -/
theorem fftInput_within (r : Bool) (s : State) (j : Nat) : (fftInput r s j).Within (2 ^ 31) := by
  cases r with
  | false => exact ⟨abs_cell_le s .ar j, abs_cell_le s .ai j⟩
  | true => exact ⟨abs_cell_le s .ar j, by simp [fftInput, realSamplesOf]⟩

/-- 1026 terms of two products of cells stay below the accumulator's bound: `1026 * 2^63 < 2^74`. -/
theorem lt_accumulator_of_le {v : Int} {n : Nat} (hn : n ≤ 1026) (hv : v ≤ n * (2 * (2 ^ 31 * 2 ^ 31))) : v < 2 ^ 74 := by
  omega

/-- Settles O47: every sum has at most 1026 terms, each of magnitude at most `2^63`. -/
theorem transformSumsFitTheAccumulator : Obligations.TransformSumsFitTheAccumulator := by
  intro s n r index hn
  have hS := spectrumOf_within s
  have hT := tableOf_within s
  have hA := fftInput_within r s
  exact ⟨lt_accumulator_of_le hn (abs_sumRe_le n hS hT index), lt_accumulator_of_le hn (abs_sumIm_le n hS hT index),
    lt_accumulator_of_le hn (abs_sumRe_le n hA hT index), lt_accumulator_of_le hn (abs_sumIm_le n hA hT index)⟩

end Sys2Proof.Machine

/-! # The state of spec/10_state.md

Where `STATUS` keeps its fields (R25), what a write to a control register does (R22 to R30), and what every step keeps: the
invariant `Inv`, and `MATCH` but for VERIFY (R30). -/

namespace Sys2Proof.Machine

open Sys2Proof.Safety

/-! ## The fields of `STATUS` -/

theorem toNat_append_eq_add {m n : Nat} (x : BitVec m) (y : BitVec n) : (x ++ y).toNat = x.toNat * 2 ^ n + y.toNat := by
  rw [BitVec.toNat_append, ← Nat.shiftLeft_add_eq_or_of_lt y.isLt, Nat.shiftLeft_eq]

/-- The register is a concatenation, so its value is the sum of the fields at their places (R25). -/
theorem statusWord_toNat (s : State) :
    s.statusWord.toNat = s.busy.toNat + 2 * s.done.toNat + 4 * s.rej.toNat + 16 * s.err.code.toNat := by
  simp only [State.statusWord, toNat_append_eq_add, BitVec.toNat_ofBool, BitVec.toNat_ofNat]
  omega

/-- Settles O58: the word at `0x0002` is the register, whose last field is the code of R130. -/
theorem statusWordFields : Obligations.StatusWordFields := by
  intro s
  rw [show s.portWord 0x0002 = s.statusWord from rfl, statusWord_toNat]
  cases s.err <;> rfl

/-! ## The control registers of an idle engine -/

/-- The low `n` bits of a word, read back with zeros above them: the implemented bits of a register. -/
theorem setWidth_low_bits (v : Word) {n : Nat} (hn : n ≤ 32) :
    (v.extractLsb' 0 n).setWidth 32 = v &&& BitVec.ofNat 32 (2 ^ n - 1) := by
  have hpow : 2 ^ n ≤ 2 ^ 32 := Nat.pow_le_pow_right (by decide) hn
  have hmask : (2 ^ n - 1) % 2 ^ 32 = 2 ^ n - 1 := Nat.mod_eq_of_lt (by have := Nat.two_pow_pos n; omega)
  apply BitVec.eq_of_toNat_eq
  rw [BitVec.toNat_setWidth_of_le hn, BitVec.extractLsb'_toNat, BitVec.toNat_and, BitVec.toNat_ofNat, hmask,
    Nat.and_two_pow_sub_one_eq_mod, Nat.shiftRight_zero]

/-- Each of the four read-write control registers stands at one offset only (R22). -/
theorem portCell_control_iff (o : Nat) :
    (portCell o = .ctrl ↔ o = 0x0003) ∧ (portCell o = .len ↔ o = 0x0004) ∧ (portCell o = .step ↔ o = 0x0005) ∧
    (portCell o = .sent ↔ o = 0x0006) := by
  unfold portCell
  split_ifs <;> simp_all

section
variable (s : State) (o : Nat)

theorem portWord_set_qmode (q : BitVec 2) :
    ({ s with qmode := q } : State).portWord o = if o = 0x0003 then q.setWidth 32 else s.portWord o := by
  simp only [← (portCell_control_iff o).1, State.portWord]
  cases portCell o <;> rfl

theorem portWord_set_len (n : BitVec 11) :
    ({ s with len := n } : State).portWord o = if o = 0x0004 then n.setWidth 32 else s.portWord o := by
  simp only [← (portCell_control_iff o).2.1, State.portWord]
  cases portCell o <;> rfl

theorem portWord_set_stepSize (n : BitVec 16) :
    ({ s with stepSize := n } : State).portWord o = if o = 0x0005 then n.setWidth 32 else s.portWord o := by
  simp only [← (portCell_control_iff o).2.2.1, State.portWord]
  cases portCell o <;> rfl

theorem portWord_set_sent (w : Word) :
    ({ s with sent := w } : State).portWord o = if o = 0x0006 then w else s.portWord o := by
  simp only [← (portCell_control_iff o).2.2.2, State.portWord]
  cases portCell o <;> rfl

end

theorem portWord_set_events (s : State) (es : List Event) (o : Nat) :
    ({ s with events := es } : State).portWord o = s.portWord o := rfl

theorem gated_idle {s : State} (h : s.busy = false) (t : State) : gated s t = t := by simp [gated, h]

/-- The implemented bits of the control register at an offset (R26 to R29). -/
def implementedBits (off : Nat) (v : Word) : Word :=
  if off = 0x0003 then v &&& 0x00000003#32 else if off = 0x0004 then v &&& 0x000007FF#32
  else if off = 0x0005 then v &&& 0x0000FFFF#32 else v

/-- What a write to one of the four read-write control registers of an idle engine leaves in the window. -/
theorem hostWrite_control {s : State} (idle : s.busy = false) {off : Nat} (lo : 0x0003 ≤ off) (hi : off ≤ 0x0006)
    (v : Word) : ∃ t, hostWrite off v s = .next t ∧ t.events = s.events ∧
      ∀ o, t.portWord o = if o = off then implementedBits off v else s.portWord o := by
  obtain rfl | rfl | rfl | rfl : off = 3 ∨ off = 4 ∨ off = 5 ∨ off = 6 := by omega
  case inl =>
    refine ⟨{ s with qmode := v.extractLsb' 0 2 }, congrArg _ (gated_idle idle _), rfl, fun o => ?_⟩
    rw [portWord_set_qmode, setWidth_low_bits v (by decide)]; rfl
  case inr.inl =>
    refine ⟨{ s with len := v.extractLsb' 0 11 }, congrArg _ (gated_idle idle _), rfl, fun o => ?_⟩
    rw [portWord_set_len, setWidth_low_bits v (by decide)]; rfl
  case inr.inr.inl =>
    refine ⟨{ s with stepSize := v.extractLsb' 0 16 }, congrArg _ (gated_idle idle _), rfl, fun o => ?_⟩
    rw [portWord_set_stepSize, setWidth_low_bits v (by decide)]; rfl
  case inr.inr.inr =>
    exact ⟨{ s with sent := v }, congrArg _ (gated_idle idle _), rfl, fun o => portWord_set_sent s o v⟩

/-- `ID`, `STATUS` and `MATCH` are read-only (R23, R25, R30). -/
theorem hostWrite_readOnly {off : Nat} (h : off = 0x0000 ∨ off = 0x0002 ∨ off = 0x0007) (v : Word) (s : State) :
    hostWrite off v s = .next s := by
  obtain rfl | rfl | rfl := h <;> rfl

/-- Settles O48: the write changes one register of the window, or none. -/
theorem registersReadBackImplementedBits : Obligations.RegistersReadBackImplementedBits := by
  intro s off v rest idle hev
  rw [step_write hev]
  refine ⟨fun lo hi => ?_, fun h => hostWrite_readOnly h v _⟩
  obtain ⟨t, ht, hevents, hport⟩ := hostWrite_control (s := { s with events := rest }) idle lo hi v
  refine ⟨t, ht, hevents, ?_, fun o ho => ?_⟩
  · rw [hport, if_pos rfl, implementedBits]
  · rw [hport, if_neg ho, portWord_set_events]

/-! ## Memory that is canonical and lists assigned cells only -/

/-- The part of `Inv` that speaks of memory. -/
def Memory.Sound (m : Memory) : Prop := m.wf = true ∧ ∀ c ∈ m, memoryOffset (c.1 / 4) = true

/-- Every byte of the range (first address, length) belongs to an assigned word (spec/20_memory.md R51). -/
def AssignedRange (r : Nat × Nat) : Prop := ∀ a, r.1 ≤ a → a < r.1 + r.2 → memoryOffset (a / 4) = true

/-- The entries of a memory of 32-bit cells are assigned up to its depth. -/
theorem assignedRange_cells (r : Region) {lo n : Nat} (h : lo + n ≤ 1026) : AssignedRange (4 * (r.base + lo), 4 * n) := by
  intro a h1 h2
  rw [memoryOffset_iff]
  cases r <;> simp only [Region.base] at h1 h2 <;> omega

theorem assignedRange_region (r : Region) {n : Nat} (h : n ≤ 1026) : AssignedRange (r.bytes n) :=
  assignedRange_cells r (lo := 0) (by omega)

theorem assignedRange_block {n : Nat} (h : n ≤ 1024) : AssignedRange (bbAddr, n) := by
  intro a h1 h2
  rw [memoryOffset_iff]
  simp only [bbAddr] at h1 h2
  omega

theorem assignedRange_word {off : Nat} (h : memoryOffset off = true) : AssignedRange (4 * off, 4) := by
  intro a h1 h2
  rwa [show a / 4 = off by simp only at h1 h2; omega]

theorem Memory.Sound.storeBytes {m : Memory} (h : m.Sound) {a : Nat} {vs : List Byte}
    (ha : AssignedRange (a, vs.length)) : (m.storeBytes a vs).Sound := by
  obtain ⟨hwf, hassigned⟩ := h
  refine ⟨Memory.wf_storeBytes hwf a vs, fun c hc => ?_⟩
  rcases Memory.mem_storeBytes hc with ⟨h1, h2⟩ | hc
  · exact ha c.1 h1 h2
  · exact hassigned c hc

theorem Memory.Sound.unspecify {m : Memory} (h : m.Sound) (d : Nat) {rs : List (Nat × Nat)}
    (hrs : ∀ r ∈ rs, AssignedRange r) : (m.unspecify d rs).Sound := by
  obtain ⟨hwf, hassigned⟩ := h
  refine ⟨Memory.wf_unspecify hwf d rs, fun c hc => ?_⟩
  rcases Memory.mem_unspecify hc with ⟨r, hr, h1, h2⟩ | hc
  · exact hrs r hr c.1 h1 h2
  · exact hassigned c hc

/-! ## The destinations of the commands are assigned -/

theorem spectrumBytes_assigned {s : State} (h : s.lenLegal = true) : ∀ r ∈ s.spectrumBytes, AssignedRange r := by
  obtain ⟨-, -, -, -, hN⟩ := lengths_of_legal h
  simp only [State.spectrumBytes, List.forall_mem_cons]
  exact ⟨assignedRange_region _ hN, assignedRange_region _ hN, by simp⟩

theorem sampleBytes_assigned {s : State} (h : s.lenLegal = true) : ∀ r ∈ s.sampleBytes, AssignedRange r := by
  obtain ⟨-, -, -, -, hN⟩ := lengths_of_legal h
  simp only [State.sampleBytes, List.forall_mem_cons]
  exact ⟨assignedRange_region _ hN, assignedRange_region _ hN, by simp⟩

theorem blockBytes_assigned {s : State} (h : s.lenLegal = true) : ∀ r ∈ s.blockBytes, AssignedRange r := by
  obtain ⟨-, -, hL⟩ := (lenLegal_iff s).1 h
  simpa [State.blockBytes] using assignedRange_block hL

/-! ## What the bodies store -/

/-- `t` is `s` after stores to assigned cells and nothing else. -/
def SoundStore (s t : State) : Prop := ∃ m, t = { s with mem := m } ∧ (s.mem.Sound → m.Sound)

theorem SoundStore.trans {s t u : State} (hst : SoundStore s t) (htu : SoundStore t u) : SoundStore s u := by
  obtain ⟨m, rfl, hm⟩ := hst
  obtain ⟨m', rfl, hm'⟩ := htu
  exact ⟨m', rfl, fun h => hm' (hm h)⟩

theorem SoundStore.lenLegal {s t : State} (h : SoundStore s t) : t.lenLegal = s.lenLegal := by
  obtain ⟨m, rfl, -⟩ := h
  rfl

theorem soundStore_storeBytes (s : State) {a : Nat} {vs : List Byte} (h : AssignedRange (a, vs.length)) :
    SoundStore s (s.storeBytes a vs) :=
  ⟨_, rfl, fun hs => hs.storeBytes h⟩

theorem soundStore_storeCells (s : State) (r : Region) {lo : Nat} {vs : List Int} (h : lo + vs.length ≤ 1026) :
    SoundStore s (s.storeCells r lo vs) := by
  refine soundStore_storeBytes s ?_
  rw [flatMap_wordBytes_length, List.length_map]
  exact assignedRange_cells r h

theorem packBody_soundStore {s : State} (h : s.lenLegal = true) : SoundStore s (packBody s) := by
  obtain ⟨-, -, -, hK, -⟩ := lengths_of_legal h
  exact (soundStore_storeCells s .sr (by rw [headRe_length]; omega)).trans
    (soundStore_storeCells _ .si (by rw [headIm_length]; omega))

theorem symBody_soundStore {s t : State} (h : s.lenLegal = true) (ht : symBody s = some t) : SoundStore s t := by
  obtain ⟨-, -, -, hK, -⟩ := lengths_of_legal h
  rw [symBody] at ht
  split at ht
  · cases ht
  · cases ht
    exact (soundStore_storeCells s .sr (by rw [mirrorRe_length]; omega)).trans
      (soundStore_storeCells _ .si (by rw [mirrorIm_length]; omega))

theorem storeResults_soundStore {s t : State} {re im : Region} {outs : List Cpx} (h : outs.length ≤ 1026)
    (ht : s.storeResults re im outs = some t) : SoundStore s t := by
  rw [State.storeResults] at ht
  split at ht
  · cases ht
    exact (soundStore_storeCells s re (by rw [List.length_map]; omega)).trans
      (soundStore_storeCells _ im (by rw [List.length_map]; omega))
  · cases ht

theorem ifftBody_soundStore {s t : State} (h : s.lenLegal = true) (ht : ifftBody s = some t) : SoundStore s t := by
  obtain ⟨-, -, -, -, hN⟩ := lengths_of_legal h
  rw [ifftBody_eq] at ht
  exact storeResults_soundStore (by simpa using hN) ht

theorem fftBody_soundStore {s t : State} {r : Bool} (h : s.lenLegal = true) (ht : fftBody r s = some t) :
    SoundStore s t := by
  obtain ⟨-, -, -, -, hN⟩ := lengths_of_legal h
  rw [fftBody_eq] at ht
  exact storeResults_soundStore (by simpa using hN) ht

theorem unpackBody_soundStore {s : State} (h : s.lenLegal = true) (m : QMode) : SoundStore s (unpackBody m s) := by
  obtain ⟨-, -, hL⟩ := (lenLegal_iff s).1 h
  refine soundStore_storeBytes s ?_
  rw [unpackedBlock_length h]
  exact assignedRange_block hL

theorem encodeBody_soundStore {s t : State} (h : s.lenLegal = true) (ht : encodeBody s = some t) : SoundStore s t := by
  have hpack := packBody_soundStore h
  obtain ⟨u, hu, hbody⟩ := encodeBody_eq h
  have hsym := hpack.trans (symBody_soundStore h hu)
  exact hsym.trans (ifftBody_soundStore (hsym.lenLegal.trans h) (hbody ▸ ht))

/-- VERIFY counts each of the `2 * k <= 1024` positions at most once (spec/45_composite.md R121). -/
theorem matches_le {s : State} (h : s.lenLegal = true) : s.matches ≤ 1024 := by
  obtain ⟨-, -, -, hK, -⟩ := lengths_of_legal h
  have count_le (p : Nat → Bool) : (List.range s.lenK).countP p ≤ s.lenK := by
    simpa using List.countP_le_length (p := p) (l := List.range s.lenK)
  exact (Nat.add_le_add (count_le _) (count_le _)).trans (by omega)

/-! ## What a completion leaves -/

/-- What every command, whatever its outcome, does to the state at its completion (spec/40_control.md R86). -/
structure Completion (i : Instr) (s t : State) : Prop where
  status : t.busy = false ∧ t.done = true
  config : ConfigKept s t
  memory : s.mem.Sound → t.mem.Sound
  draws : s.draws ≤ t.draws
  matchCount : t.matchCount = s.matchCount ∨ (i = .verify ∧ t.err = s.err ∧ t.matchCount.toNat ≤ 1024)

theorem configKept_refl (s : State) : ConfigKept s s := ⟨rfl, rfl, rfl, rfl, rfl, rfl, rfl, rfl⟩

theorem completion_raise (i : Instr) (s : State) (e : ErrCode) : Completion i s (s.raise e) :=
  ⟨⟨rfl, rfl⟩, configKept_refl s, id, le_rfl, .inl rfl⟩

theorem completion_raise_unspecify (i : Instr) (s : State) (e : ErrCode) {rs : List (Nat × Nat)}
    (h : ∀ r ∈ rs, AssignedRange r) : Completion i s ((s.unspecify rs).raise e) :=
  ⟨⟨rfl, rfl⟩, configKept_refl s, fun hs => hs.unspecify s.draws h, Nat.le_succ _, .inl rfl⟩

theorem completion_finish (i : Instr) {s t : State} (h : SoundStore s t) : Completion i s t.finish := by
  obtain ⟨m, rfl, hm⟩ := h
  exact ⟨⟨rfl, rfl⟩, configKept_refl s, hm, le_rfl, .inl rfl⟩

theorem completion_verify {s t : State} (h : SoundStore s t) {c : Nat} (hc : c ≤ 1024) :
    Completion .verify s (t.setMatch c).finish := by
  obtain ⟨m, rfl, hm⟩ := h
  exact ⟨⟨rfl, rfl⟩, configKept_refl s, hm, le_rfl,
    .inr ⟨rfl, rfl, (BitVec.toNat_ofNat c 11).le.trans ((Nat.mod_le _ _).trans hc)⟩⟩

/-- The outcome is a completion of the command. -/
def Completes (i : Instr) (s : State) (o : Host.Outcome State Fault Refusal) : Prop :=
  ∃ t, o = .next t ∧ Completion i s t

theorem completes_raised (i : Instr) (s : State) (e : ErrCode) : Completes i s (raised s e) :=
  ⟨_, rfl, completion_raise i s e⟩

theorem completes_completed (i : Instr) {s t : State} (h : SoundStore s t) : Completes i s (completed t) :=
  ⟨_, rfl, completion_finish i h⟩

section
variable {i : Instr} {s : State}

theorem checkLen_completes {b : Host.Outcome State Fault Refusal} (h : s.lenLegal = true → Completes i s b) :
    Completes i s (checkLen s b) := by
  rcases checkLen_cases s b with ⟨hlegal, hb⟩ | ⟨-, hraise⟩
  · rw [hb]
    exact h hlegal
  · rw [hraise]
    exact completes_raised i s .len

theorem checkStep_completes {b : Host.Outcome State Fault Refusal} (h : Completes i s b) :
    Completes i s (checkStep s b) := by
  rcases checkStep_cases s b with ⟨-, hb⟩ | ⟨-, hraise⟩
  · rw [hb]
    exact h
  · rw [hraise]
    exact completes_raised i s .cfg

theorem checkMode_completes {b : QMode → Host.Outcome State Fault Refusal} (h : ∀ m, Completes i s (b m)) :
    Completes i s (checkMode s b) := by
  rcases checkMode_cases s b with ⟨m, -, hb⟩ | ⟨-, hraise⟩
  · rw [hb]
    exact h m
  · rw [hraise]
    exact completes_raised i s .cfg

theorem checkResult_completes {ds : List (Nat × Nat)} {r : Option State} (hds : ∀ d ∈ ds, AssignedRange d)
    (h : ∀ t, r = some t → Completion i s t.finish) : Completes i s (checkResult s ds r) := by
  rcases checkResult_cases s ds r with ⟨t, hr, e⟩ | ⟨-, e⟩
  · exact ⟨_, e, h t hr⟩
  · exact ⟨_, e, completion_raise_unspecify i s .vod hds⟩

end

/-- Every command completes, whatever the state: its checks raise or its body stores to assigned cells. -/
theorem exec_completes (i : Instr) (s : State) : Completes i s (exec i s) := by
  cases i with
  | nop => exact completes_completed _ ⟨_, rfl, id⟩
  | clrerr => exact ⟨_, rfl, ⟨rfl, rfl⟩, configKept_refl s, id, le_rfl, .inl rfl⟩
  | pack => exact checkLen_completes fun h => checkStep_completes (completes_completed _ (packBody_soundStore h))
  | sym =>
    refine checkLen_completes fun h => ?_
    cases hbody : symBody s with
    | none => exact completes_raised _ s .vod
    | some t => exact completes_completed _ (symBody_soundStore h hbody)
  | ifft =>
    exact checkLen_completes fun h => checkResult_completes (sampleBytes_assigned h) fun _ ht =>
      completion_finish _ (ifftBody_soundStore h ht)
  | fft r =>
    exact checkLen_completes fun h => checkResult_completes (spectrumBytes_assigned h) fun _ ht =>
      completion_finish _ (fftBody_soundStore h ht)
  | unpack =>
    exact checkLen_completes fun h => checkStep_completes <| checkMode_completes fun m =>
      completes_completed _ (unpackBody_soundStore h m)
  | encode =>
    exact checkLen_completes fun h => checkStep_completes <| checkResult_completes
      (List.forall_mem_append.2 ⟨spectrumBytes_assigned h, sampleBytes_assigned h⟩) fun _ ht =>
        completion_finish _ (encodeBody_soundStore h ht)
  | decode =>
    refine checkLen_completes fun h => checkStep_completes <| checkMode_completes fun m => checkResult_completes
      (List.forall_mem_append.2 ⟨spectrumBytes_assigned h, blockBytes_assigned h⟩) fun _ ht => ?_
    obtain ⟨u, hu, rfl⟩ := Option.map_eq_some_iff.1 ht
    have hfft := fftBody_soundStore h hu
    exact completion_finish _ (hfft.trans (unpackBody_soundStore (hfft.lenLegal.trans h) m))
  | verify =>
    refine checkLen_completes fun h => checkStep_completes <| checkResult_completes (spectrumBytes_assigned h) fun _ ht => ?_
    obtain ⟨u, hu, rfl⟩ := Option.map_eq_some_iff.1 ht
    have hfft := fftBody_soundStore h hu
    exact completion_verify hfft (matches_le (hfft.lenLegal.trans h))

/-! ## What a step can do -/

/-- The engine's turn: an idle engine does nothing, a busy one completes the command in `CUR`, or raises `ERR_CMD`. -/
theorem engineTurn_next {s t : State} (h : engineTurn s = .next t) :
    (s.busy = false ∧ t = s) ∨
    (s.busy = true ∧ ((∃ i, decode s.cur = .ok i ∧ Completion i s t) ∨ t = s.raise .cmd)) := by
  cases hb : s.busy with
  | false =>
    rw [engineTurn_idle hb] at h
    cases h
    exact .inl ⟨rfl, rfl⟩
  | true =>
    rw [engineTurn_busy hb] at h
    refine .inr ⟨rfl, ?_⟩
    cases hd : decode s.cur with
    | ok i =>
      obtain ⟨u, hu, hcompletion⟩ := exec_completes i s
      rw [complete_ok hd, hu] at h
      cases h
      exact .inl ⟨i, rfl, hcompletion⟩
    | error e =>
      rw [complete_error hd] at h
      cases h
      exact .inr rfl

/-- What a host access that succeeds can do to the state (spec/20_memory.md R54 to R59, spec/40_control.md R85). -/
inductive HostEffect (s : State) : State → Prop where
  | replied (w : Word) (d : Nat) (later : s.draws ≤ d) : HostEffect s { s with replies := w :: s.replies, draws := d }
  | ignored : HostEffect s s
  | rejected : HostEffect s s.reject
  | accepted (w : Word) (idle : s.busy = false) (allowed : s.err = .noError ∨ w = 0x00000009#32) :
    HostEffect s (s.accept w)
  | configured (q : BitVec 2) (n : BitVec 11) (d : BitVec 16) (w : Word) (idle : s.busy = false) :
    HostEffect s { s with qmode := q, len := n, stepSize := d, sent := w }
  | stored (off : Nat) (v : Word) (idle : s.busy = false) (assigned : memoryOffset off = true) :
    HostEffect s (s.storeWords off [v])

theorem hostRead_effect {off : Nat} {s t : State} (h : hostRead off s = .next t) : HostEffect s t := by
  rw [hostRead] at h
  split_ifs at h
  · cases h
    exact .replied _ _ (Nat.le_succ _)
  · cases h
    exact .replied _ _ le_rfl

theorem offer_effect (w : Word) (s : State) : HostEffect s (offer w s) := by
  rw [offer]
  split_ifs with hb hh
  · exact .rejected
  · exact .rejected
  · refine .accepted w (by simpa using hb) ?_
    simp only [State.halted, Bool.and_eq_true, bne_iff_ne] at hh
    tauto

theorem gated_effect {s t : State} (h : s.busy = false → HostEffect s t) : HostEffect s (gated s t) := by
  rw [gated]
  split_ifs with hb
  · exact .rejected
  · exact h (by simpa using hb)

theorem hostWrite_effect {off : Nat} {v : Word} {s t : State} (h : hostWrite off v s = .next t) : HostEffect s t := by
  rw [hostWrite] at h
  split_ifs at h
  injection h with h
  subst h
  cases hc : portCell off with
  | cmd => exact offer_effect v s
  | ctrl => exact gated_effect (.configured _ _ _ _)
  | len => exact gated_effect (.configured _ _ _ _)
  | step => exact gated_effect (.configured _ _ _ _)
  | sent => exact gated_effect (.configured _ _ _ _)
  | memory => exact gated_effect fun idle => .stored off v idle ((portCell_memory_iff off).1 hc)
  | _ => exact .ignored -- `ID`, `STATUS`, `MATCH` and the unassigned offsets

/-- A step is the reset input, the engine's turn or a host access, taken from the list of events. -/
theorem step_next {s t : State} (h : step s = .next t) :
    (∃ rest, s.events = .reset :: rest ∧ t = resetEvent { s with events := rest }) ∨
    ((s.events = [] ∨ ∃ rest, s.events = .engine :: rest) ∧ ∃ es, engineTurn { s with events := es } = .next t) ∨
    (∃ rest, HostEffect { s with events := rest } t) := by
  cases hev : s.events with
  | nil => exact .inr (.inl ⟨.inl rfl, s.events, (step_idle hev).symm.trans h⟩)
  | cons e rest =>
    cases e with
    | read off => exact .inr (.inr ⟨rest, hostRead_effect ((step_read hev).symm.trans h)⟩)
    | write off v => exact .inr (.inr ⟨rest, hostWrite_effect ((step_write hev).symm.trans h)⟩)
    | engine => exact .inr (.inl ⟨.inr ⟨rest, rfl⟩, rest, (step_engine hev).symm.trans h⟩)
    | reset =>
      rw [step_reset hev] at h
      cases h
      exact .inl ⟨rest, rfl, rfl⟩

/-! ## The invariant -/

/-- Settles O5: nothing is listed in memory and the engine is idle. -/
theorem resetMeetsInvariant : Obligations.ResetMeetsInvariant where
  memCanonical := Memory.wf_reset
  memAssigned := by simp [State.reset]
  notBusyAndDone := by simp [State.reset]
  haltedRunsClrerrOnly := by simp [State.reset]
  matchInRange := by simp [State.reset]
  epochDrawn := Nat.zero_lt_one

/-- The reset input gives the reset state but for the host's record and a fresh draw. -/
theorem inv_resetEvent (s : State) : Inv (resetEvent s) :=
  have h : Inv State.reset := resetMeetsInvariant
  { h with epochDrawn := Nat.lt_succ_self s.draws }

theorem inv_raise {s : State} (h : Inv s) (e : ErrCode) : Inv (s.raise e) :=
  { h with notBusyAndDone := by simp, haltedRunsClrerrOnly := by simp }

theorem inv_set_events {s : State} (h : Inv s) (es : List Event) : Inv { s with events := es } := { h with }

/-- A completion leaves the engine idle, so the clauses about a busy engine hold; memory, `MATCH` and the draws are those
of `Completion`. -/
theorem Completion.inv {i : Instr} {s t : State} (h : Completion i s t) (hs : Inv s) : Inv t := by
  obtain ⟨⟨hbusy, -⟩, ⟨-, -, -, -, -, -, -, hepoch⟩, hmem, hdraws, hmatch⟩ := h
  obtain ⟨hcanonical, hassigned⟩ := hmem ⟨hs.memCanonical, hs.memAssigned⟩
  refine ⟨hcanonical, hassigned, by simp [hbusy], by simp [hbusy], ?_, ?_⟩
  · rcases hmatch with hkept | ⟨-, -, hle⟩
    · rw [hkept]
      exact hs.matchInRange
    · exact hle
  · rw [hepoch]
    exact hs.epochDrawn.trans_le hdraws

/-- Only an accepted command makes the engine busy, and a halted engine accepts nothing but CLRERR. -/
theorem HostEffect.inv {s t : State} (h : HostEffect s t) (hs : Inv s) : Inv t := by
  cases h with
  | replied w d later => exact { hs with epochDrawn := hs.epochDrawn.trans_le later }
  | ignored => exact hs
  | rejected => exact { hs with }
  | accepted w idle allowed =>
    exact { hs with notBusyAndDone := by simp, haltedRunsClrerrOnly := fun _ herr => allowed.resolve_left herr }
  | configured => exact { hs with }
  | stored off v idle assigned =>
    obtain ⟨hcanonical, hassigned⟩ :=
      Memory.Sound.storeBytes (m := s.mem) (vs := [v].flatMap wordBytes) ⟨hs.memCanonical, hs.memAssigned⟩
        (assignedRange_word assigned)
    exact { hs with memCanonical := hcanonical, memAssigned := hassigned }

theorem engineTurn_inv {s t : State} (h : engineTurn s = .next t) (hs : Inv s) : Inv t := by
  rcases engineTurn_next h with ⟨-, rfl⟩ | ⟨-, ⟨i, -, hcompletion⟩ | rfl⟩
  · exact hs
  · exact hcompletion.inv hs
  · exact inv_raise hs .cmd

/-- Settles O6: by the three kinds of step. -/
theorem stepKeepsInvariant : Obligations.StepKeepsInvariant := by
  intro s t hs hstep
  rcases step_next hstep with ⟨rest, -, rfl⟩ | ⟨-, es, hturn⟩ | ⟨rest, heffect⟩
  · exact inv_resetEvent _
  · exact engineTurn_inv hturn (inv_set_events hs es)
  · exact heffect.inv (inv_set_events hs rest)

/-! ## Who writes `MATCH` -/

/-- Only the word `0x00000008` decodes to VERIFY (spec/30_encoding.md R71). -/
theorem eq_of_decode_verify {w : Word} (h : decode w = .ok .verify) : w = 0x00000008#32 := by
  rw [decode] at h
  split at h
  · next row hfind =>
    have hmem := List.mem_of_find?_eq_some hfind
    have hholds := List.find?_some hfind
    injection h with hinstr
    simp only [opRows, List.mem_cons, List.not_mem_nil, or_false] at hmem
    rcases hmem with rfl | rfl | rfl | rfl | rfl | rfl | rfl | rfl | rfl | rfl <;> cases hinstr
    exact BitVec.and_allOnes.symm.trans (eq_of_beq hholds)
  · cases h

theorem HostEffect.matchCount {s t : State} (h : HostEffect s t) : t.matchCount = s.matchCount := by
  cases h <;> rfl

/-- Settles O17: of the three kinds of step, a host access leaves `MATCH`, and of the completions only VERIFY's without
error writes it. -/
theorem onlyVerifyWritesMatch : Obligations.OnlyVerifyWritesMatch := by
  intro s t hstep hchanged
  rcases step_next hstep with ⟨rest, hev, -⟩ | ⟨hev, es, hturn⟩ | ⟨rest, heffect⟩
  · exact .inl ⟨rest, hev⟩
  · rcases engineTurn_next hturn with ⟨-, rfl⟩ | ⟨hbusy, ⟨i, hdecode, hcompletion⟩ | rfl⟩
    · exact absurd rfl hchanged
    · obtain ⟨rfl, herr, -⟩ := hcompletion.matchCount.resolve_left hchanged
      exact .inr ⟨hbusy, eq_of_decode_verify hdecode, herr, hev⟩
    · exact absurd rfl hchanged
  · exact absurd heffect.matchCount hchanged

end Sys2Proof.Machine

/-! # The host port of spec/20_memory.md

The address map (R51), the words of the data memories (R52, R55), and what `HostRead` and `HostWrite` do on an idle and on a
busy engine (R54 to R59). -/

namespace Sys2Proof.Machine

open Sys2Proof.Safety

/-! ## The address map -/

theorem portCell_matches_iff (off : Nat) : portCell off = .matches ↔ off = 0x0007 := by
  unfold portCell
  split_ifs <;> simp_all

/-- What is neither a control register nor a memory word is unassigned (R51). -/
theorem portCell_unassigned_iff (off : Nat) :
    portCell off = .unassigned ↔ 0x0008 ≤ off ∧ ¬memoryOffset off = true := by
  unfold portCell
  split_ifs <;> simp_all
  omega

/-- The cells whose busy reads are unspecified (R59), as offsets. -/
theorem hiddenWhileBusy_iff (off : Nat) :
    (portCell off).hiddenWhileBusy = true ↔ off = 0x0007 ∨ memoryOffset off = true := by
  rw [← portCell_matches_iff, ← portCell_memory_iff]
  cases portCell off <;> decide

theorem memoryOffset_lt_windowSize {off : Nat} (h : memoryOffset off = true) : off < Config.windowSize :=
  (memoryOffset_bounds h).2.trans (by decide)

theorem memoryOffset_region (r : Region) {m : Nat} (h : m < 1026) : memoryOffset (r.base + m) = true := by
  rw [memoryOffset_iff]
  cases r <;> simp only [Region.base] <;> omega

theorem memoryOffset_block {w : Nat} (h : w < 256) : memoryOffset (0x0400 + w) = true := by
  rw [memoryOffset_iff]
  omega

/-- Settles O52: the gaps between the ranges of `memoryOffset_iff`. -/
theorem unassignedOffsetsOfTheMap : Obligations.UnassignedOffsetsOfTheMap := by
  intro off hin
  rw [portCell_unassigned_iff, memoryOffset_iff]
  simp only [Config.windowSize] at hin
  omega

/-! ## The words of the window -/

theorem portWord_memory (s : State) {off : Nat} (h : memoryOffset off = true) : s.portWord off = s.wordAt off := by
  rw [State.portWord, portCell_memory h]

/-- A word stored at an assigned memory word replaces that word of the window and no other. -/
theorem portWord_storeWord (s : State) {off : Nat} (h : memoryOffset off = true) (v : Word) (o : Nat) :
    (s.storeWords off [v]).portWord o = if o = off then v else s.portWord o := by
  by_cases ho : o = off
  · subst ho
    rw [portWord_memory _ h, wordAt_storeWords, if_pos (by simp), if_pos rfl, Nat.sub_self, List.getD_cons_zero]
  · have hword : (s.storeWords off [v]).wordAt o = s.wordAt o := by
      rw [wordAt_storeWords, if_neg (by simp only [List.length_singleton]; omega)]
    rw [if_neg ho, State.portWord, State.portWord, hword]
    cases portCell o <;> rfl

/-! ## `HostRead` and `HostWrite` -/

theorem hostRead_outside {off : Nat} (h : Config.windowSize ≤ off) (s : State) :
    hostRead off s = .fault .outsideWindow := if_pos h

theorem hostWrite_outside {off : Nat} (h : Config.windowSize ≤ off) (v : Word) (s : State) :
    hostWrite off v s = .fault .outsideWindow := if_pos h

/-- A busy read of `MATCH` or of a memory word returns the next free value (R59). -/
theorem hostRead_hidden {off : Nat} {s : State} (hin : off < Config.windowSize) (busy : s.busy = true)
    (hidden : (portCell off).hiddenWhileBusy = true) :
    hostRead off s =
      .next { s with replies := Config.freeWord s.draws :: s.replies, draws := s.draws + 1 } := by
  rw [hostRead, if_neg hin.not_ge, if_pos (by rw [busy, hidden]; rfl)]
  rfl

/-- Every other read returns the word of the window and changes nothing (R56, R59). -/
theorem hostRead_visible {off : Nat} {s : State} (hin : off < Config.windowSize)
    (visible : s.busy = false ∨ (portCell off).hiddenWhileBusy = false) :
    hostRead off s = .next { s with replies := s.portWord off :: s.replies } := by
  have h : (s.busy && (portCell off).hiddenWhileBusy) = false := Bool.and_eq_false_iff.2 visible
  rw [hostRead, if_neg hin.not_ge, if_neg (by simp [h])]
  rfl

theorem hostWrite_memory {off : Nat} (h : memoryOffset off = true) (v : Word) (s : State) :
    hostWrite off v s = .next (gated s (s.storeWords off [v])) := by
  rw [hostWrite, if_neg (memoryOffset_lt_windowSize h).not_ge, portCell_memory h]

theorem hostWrite_memory_idle {off : Nat} (h : memoryOffset off = true) (v : Word) {s : State} (idle : s.busy = false) :
    hostWrite off v s = .next (s.storeWords off [v]) := by
  rw [hostWrite_memory h, gated_idle idle]

theorem hostWrite_unassigned {off : Nat} (hin : off < Config.windowSize) (h : portCell off = .unassigned) (v : Word)
    (s : State) : hostWrite off v s = .next s := by
  rw [hostWrite, if_neg hin.not_ge, h]

theorem gated_busy {s : State} (h : s.busy = true) (t : State) : gated s t = s.reject := by simp [gated, h]

theorem offer_busy {s : State} (h : s.busy = true) (w : Word) : offer w s = s.reject := by simp [offer, h]

/-- The busy gate (R58): `CMD`, the read-write control registers and the memory words reject a write. -/
theorem hostWrite_busy {off : Nat} (h : off = 0x0001 ∨ (0x0003 ≤ off ∧ off ≤ 0x0006) ∨ memoryOffset off = true)
    (v : Word) {s : State} (busy : s.busy = true) : hostWrite off v s = .next s.reject := by
  rcases h with rfl | ⟨lo, hi⟩ | h
  · exact congrArg _ (offer_busy busy v)
  · obtain rfl | rfl | rfl | rfl : off = 3 ∨ off = 4 ∨ off = 5 ∨ off = 6 := by omega
    all_goals exact congrArg _ (gated_busy busy _)
  · rw [hostWrite_memory h, gated_busy busy]

/-! ## When a step stops -/

theorem hostRead_inside {off : Nat} (h : off < Config.windowSize) (s : State) : ∃ t, hostRead off s = .next t := by
  by_cases visible : s.busy = false ∨ (portCell off).hiddenWhileBusy = false
  · exact ⟨_, hostRead_visible h visible⟩
  · simp only [not_or, Bool.not_eq_false] at visible
    obtain ⟨busy, hidden⟩ := visible
    exact ⟨_, hostRead_hidden h busy hidden⟩

theorem hostWrite_inside {off : Nat} (h : off < Config.windowSize) (v : Word) (s : State) :
    ∃ t, hostWrite off v s = .next t := ⟨_, if_neg h.not_ge⟩

/-- The engine's turn never stops the machine: every command completes, and an illegal word raises. -/
theorem engineTurn_isNext (s : State) : ∃ t, engineTurn s = .next t := by
  cases hb : s.busy with
  | false => exact ⟨s, engineTurn_idle hb⟩
  | true =>
    rw [engineTurn_busy hb]
    cases hd : decode s.cur with
    | ok i =>
      obtain ⟨t, ht, -⟩ := exec_completes i s
      exact ⟨t, (complete_ok hd).trans ht⟩
    | error e => exact ⟨_, complete_error hd⟩

/-- The first of the events is a host access outside the window. -/
def OutsideAccess (es : List Event) : Prop :=
  ∃ off rest, Config.windowSize ≤ off ∧ (es = .read off :: rest ∨ ∃ v, es = .write off v :: rest)

theorem outsideAccess_read_iff (off : Nat) (rest : List Event) :
    OutsideAccess (.read off :: rest) ↔ Config.windowSize ≤ off := by simp [OutsideAccess]

theorem outsideAccess_write_iff (off : Nat) (v : Word) (rest : List Event) :
    OutsideAccess (.write off v :: rest) ↔ Config.windowSize ≤ off := by simp [OutsideAccess]

/-- A step faults on an access outside the window and has a next state otherwise. -/
theorem step_outcome (s : State) :
    (OutsideAccess s.events ∧ step s = .fault .outsideWindow) ∨
    (¬OutsideAccess s.events ∧ ∃ t, step s = .next t) := by
  cases hev : s.events with
  | nil => exact .inr ⟨by simp [OutsideAccess], step_idle hev ▸ engineTurn_isNext s⟩
  | cons e rest =>
    cases e with
    | engine => exact .inr ⟨by simp [OutsideAccess], step_engine hev ▸ engineTurn_isNext _⟩
    | reset => exact .inr ⟨by simp [OutsideAccess], _, step_reset hev⟩
    | read off =>
      rw [outsideAccess_read_iff, step_read hev]
      rcases le_or_gt Config.windowSize off with hout | hin
      · exact .inl ⟨hout, hostRead_outside hout _⟩
      · exact .inr ⟨hin.not_ge, hostRead_inside hin _⟩
    | write off v =>
      rw [outsideAccess_write_iff, step_write hev]
      rcases le_or_gt Config.windowSize off with hout | hin
      · exact .inl ⟨hout, hostWrite_outside hout v _⟩
      · exact .inr ⟨hin.not_ge, hostWrite_inside hin v _⟩

/-- Settles O7: by the two outcomes of `step_outcome`. -/
theorem stepStopsOnlyOutsideTheWindow : Obligations.StepStopsOnlyOutsideTheWindow := by
  refine ⟨fun s r h => ?_, fun s f => show _ ↔ OutsideAccess s.events from ?_⟩
  · rcases step_outcome s with ⟨-, hs⟩ | ⟨-, t, hs⟩ <;> cases hs.symm.trans h
  · rcases step_outcome s with ⟨hout, hs⟩ | ⟨hin, t, hs⟩
    · cases f
      exact iff_of_true hs hout
    · exact iff_of_false (fun h => nomatch hs.symm.trans h) hin

/-! ## The memories behind the port -/

/-- Settles O49: a port word is the four bytes of the cell, and a store of one word is seen at that word only. -/
theorem memoryWordsReadBack : Obligations.MemoryWordsReadBack := by
  refine ⟨fun s r base m hm hmem => ?_, fun s off v rest idle hoff hev => ?_⟩
  · have hbase : base = r.base := by
      simp only [List.mem_cons, Prod.mk.injEq, List.not_mem_nil, or_false] at hmem
      rcases hmem with ⟨rfl, rfl⟩ | ⟨rfl, rfl⟩ | ⟨rfl, rfl⟩ | ⟨rfl, rfl⟩ | ⟨rfl, rfl⟩ | ⟨rfl, rfl⟩ <;> rfl
    subst hbase
    have hoff := memoryOffset_region r hm
    have hcell (t : State) : t.cell r m = (t.portWord (r.base + m)).toInt := by rw [portWord_memory t hoff, State.cell]
    refine ⟨by rw [hcell, enc32_toInt], fun v rest idle hev => ?_⟩
    refine ⟨_, (step_write hev).trans (hostWrite_memory_idle hoff v idle), ?_⟩
    rw [hcell, portWord_storeWord _ hoff, if_pos rfl]
  · refine ⟨_, (step_write hev).trans (hostWrite_memory_idle hoff v idle), rfl, ?_, fun o ho => ?_⟩
    · rw [portWord_storeWord _ hoff, if_pos rfl]
    · rw [portWord_storeWord _ hoff, if_neg ho, portWord_set_events]

theorem bytesWord_toNat (b0 b1 b2 b3 : Byte) :
    (bytesWord b0 b1 b2 b3).toNat = b0.toNat + 2 ^ 8 * b1.toNat + 2 ^ 16 * b2.toNat + 2 ^ 24 * b3.toNat := by
  simp only [bytesWord, toNat_append_eq_add]
  omega

/-- The word at `0x0400 + w` is made of `BB[4w] .. BB[4w+3]` (R52). -/
theorem wordAt_block (s : State) (w : Nat) :
    s.wordAt (0x0400 + w) = bytesWord (s.bb (4 * w)) (s.bb (4 * w + 1)) (s.bb (4 * w + 2)) (s.bb (4 * w + 3)) := by
  simp only [State.wordAt, State.bb, bbAddr, Nat.mul_add, Nat.add_assoc]

theorem wordBytes_getD (v : Word) {b : Nat} (hb : b < 4) (d : Byte) :
    (wordBytes v).getD b d = v.extractLsb' (8 * b) 8 := by
  obtain rfl | rfl | rfl | rfl : b = 0 ∨ b = 1 ∨ b = 2 ∨ b = 3 := by omega
  all_goals rfl

/-- A word stored at `0x0400 + w` puts its bytes into `BB[4w] .. BB[4w+3]` (R52). -/
theorem bb_storeWord (s : State) (w : Nat) (v : Word) {b : Nat} (hb : b < 4) :
    (s.storeWords (0x0400 + w) [v]).bb (4 * w + b) = v.extractLsb' (8 * b) 8 := by
  have haddr : bbAddr + (4 * w + b) = 4 * (0x0400 + w) + b := by simp only [bbAddr]; omega
  rw [State.bb, haddr, State.storeWords, byteAt_storeBytes, if_pos, Nat.add_sub_cancel_left, List.flatMap_singleton,
    wordBytes_getD v hb]
  rw [List.flatMap_singleton, wordBytes_length]
  omega

/-- Settles O50: the word is the four bytes, read (`wordAt_block`) and written (`bb_storeWord`). -/
theorem blockWordsAreLittleEndian : Obligations.BlockWordsAreLittleEndian := by
  intro s w v rest hw idle
  have hoff := memoryOffset_block hw
  refine ⟨by rw [portWord_memory s hoff, wordAt_block, bytesWord_toNat], fun hev => ?_⟩
  exact ⟨_, (step_write hev).trans (hostWrite_memory_idle hoff v idle), fun b hb => bb_storeWord _ w v hb⟩

/-! ## Unassigned offsets -/

theorem portWord_unassigned (s : State) {off : Nat} (h : portCell off = .unassigned) : s.portWord off = 0x00000000#32 := by
  rw [State.portWord, h]

/-- Settles O51: an unassigned offset is never hidden and holds the word 0. -/
theorem unassignedOffsetsHoldNothing : Obligations.UnassignedOffsetsHoldNothing := by
  intro s off v rest hin hun
  refine ⟨fun hev => ?_, fun hev => (step_write hev).trans (hostWrite_unassigned hin hun v _)⟩
  rw [step_read hev, hostRead_visible hin (.inr (by rw [hun]; rfl)), portWord_unassigned _ hun]

/-! ## The busy engine -/

/-- Settles O53: a gated write is rejected, a read-only register ignores it. -/
theorem busyGateRejectsWrites : Obligations.BusyGateRejectsWrites := by
  intro s off v rest busy hev
  rw [step_write hev]
  exact ⟨fun h => hostWrite_busy h v busy, fun h => hostWrite_readOnly h v _⟩

/-- Of the effects of a host access, a busy engine shows a reply and a rejection only. -/
theorem HostEffect.of_busy {s t : State} (h : HostEffect s t) (busy : s.busy = true) :
    ∃ rj rp d, t = { s with rej := rj, replies := rp, draws := d } := by
  cases h with
  | replied w d _ => exact ⟨s.rej, w :: s.replies, d, rfl⟩
  | ignored => exact ⟨s.rej, s.replies, s.draws, rfl⟩
  | rejected => exact ⟨true, s.replies, s.draws, rfl⟩
  | accepted _ idle _ => simp [busy] at idle
  | configured _ _ _ _ idle => simp [busy] at idle
  | stored _ _ idle _ => simp [busy] at idle

/-- Settles O54: read or write, the access has one of the effects of `HostEffect`. -/
theorem hostCannotDisturbARunningCommand : Obligations.HostCannotDisturbARunningCommand := by
  intro s t rest off v busy hev hstep
  have heffect : HostEffect { s with events := rest } t := by
    rcases hev with hev | hev
    · exact hostRead_effect ((step_read hev).symm.trans hstep)
    · exact hostWrite_effect ((step_write hev).symm.trans hstep)
  exact heffect.of_busy busy

/-- Settles O55: of the first eight offsets only `MATCH` is hidden while the engine is busy. -/
theorem readsWhileBusy : Obligations.ReadsWhileBusy := by
  intro s off rest busy hev
  rw [step_read hev]
  refine ⟨fun hle => ?_, fun h => h ▸ rfl, fun h => ?_⟩
  · have hvisible : ¬(portCell off).hiddenWhileBusy = true := by
      rw [hiddenWhileBusy_iff, memoryOffset_iff]
      omega
    exact hostRead_visible (hle.trans_lt (by decide)) (.inr (by simpa using hvisible))
  · have hin : off < Config.windowSize := h.elim (fun h => h ▸ by decide) memoryOffset_lt_windowSize
    exact hostRead_hidden hin busy ((hiddenWhileBusy_iff off).2 h)

/-! ## Reads of an idle engine -/

/-- Settles O56: the word of the window does not depend on what the host has seen or will do. -/
theorem idleReadsHaveNoSideEffect : Obligations.IdleReadsHaveNoSideEffect := by
  refine ⟨fun s => ?_, fun s off rest idle hin hev => ?_⟩
  · have hwiden {n : Nat} (hn : n ≤ 32) (x : BitVec n) : (x.setWidth 32).toNat = x.toNat := BitVec.toNat_setWidth_of_le hn
    exact ⟨rfl, rfl, rfl, hwiden (by decide) s.qmode, hwiden (by decide) s.len, hwiden (by decide) s.stepSize, rfl,
      hwiden (by decide) s.matchCount⟩
  · exact ⟨(step_read hev).trans (hostRead_visible hin (.inl idle)), rfl⟩

end Sys2Proof.Machine

/-! # The encoding of spec/30_encoding.md

The decoder and the encoder (R71, R73), what the real-input flag leaves unread (R72), and the script line `LDB`
(R76). -/

namespace Sys2Proof

open Sys2Proof.Laws

/-! ## Decoding is the inverse of encoding -/

/-- The eleven commands, in the order of R71. -/
def commands : List Instr :=
  [.nop, .pack, .sym, .ifft, .fft false, .fft true, .unpack, .encode, .decode, .verify, .clrerr]

theorem mem_commands (i : Instr) : i ∈ commands := by
  cases i with
  | fft r => cases r <;> decide
  | _ => decide

/-- The list of legal command words of R71. -/
theorem map_encode_commands : commands.map encode =
    [0x00000000#32, 0x00000001#32, 0x00000002#32, 0x00000003#32, 0x00000004#32, 0x00000104#32, 0x00000005#32,
      0x00000006#32, 0x00000007#32, 0x00000008#32, 0x00000009#32] := rfl

theorem decode_encode (i : Instr) : decode (encode i) = .ok i := by
  have h : RoundTrip.Statement i := by
    cases i with
    | nop => exact RoundTrip.nop
    | pack => exact RoundTrip.pack
    | sym => exact RoundTrip.sym
    | ifft => exact RoundTrip.ifft
    | fft r => exact RoundTrip.fft r
    | unpack => exact RoundTrip.unpack
    | encode => exact RoundTrip.encode
    | decode => exact RoundTrip.decode
    | verify => exact RoundTrip.verify
    | clrerr => exact RoundTrip.clrerr
  exact h.2

/-- A row whose mask is full holds of its pattern only. -/
theorem eq_of_and_fullMask {w p : Word} (h : w &&& 0xFFFFFFFF#32 = p) : p = w := h.symm.trans BitVec.and_allOnes

/-- A word is what FFT's mask keeps of it and the flag, bit 8, that the mask leaves out (R70). -/
theorem and_fftMask_or_flag (w : Word) :
    (w &&& 0xFFFFFEFF#32) ||| (if w.getLsbD 8 then 0x00000100#32 else 0#32) = w := by
  have hflag : w &&& 0x00000100#32 = if w.getLsbD 8 then 0x00000100#32 else 0#32 := BitVec.and_twoPow w 8
  rw [← hflag, ← BitVec.and_or_distrib_left]
  exact BitVec.and_allOnes

/-- FFT's row holds of the two words of FFT, told apart by the flag. -/
theorem encode_fft_of_holds {w : Word} (h : w &&& 0xFFFFFEFF#32 = 0x00000004#32) : encode (.fft (w.getLsbD 8)) = w := by
  have hw := and_fftMask_or_flag w
  rw [h] at hw
  cases hbit : w.getLsbD 8 <;> rw [hbit] at hw <;> exact hw

/-- A row of the opcode map holds of the words of its own command only. -/
theorem encode_of_holds {row : OpRow} {w : Word} (hmem : row ∈ opRows) (h : row.holds w = true) :
    encode (row.instr (w.getLsbD 8)) = w := by
  have h := eq_of_beq h
  simp only [opRows, List.mem_cons, List.not_mem_nil, or_false] at hmem
  rcases hmem with rfl | rfl | rfl | rfl | rfl | rfl | rfl | rfl | rfl | rfl
  case inr.inr.inr.inr.inl => exact encode_fft_of_holds h
  all_goals exact eq_of_and_fullMask h

theorem encode_of_decode {w : Word} {i : Instr} (h : decode w = .ok i) : encode i = w := by
  rw [decode] at h
  split at h
  · next row hfind =>
    have hholds := List.find?_some hfind
    cases h
    exact encode_of_holds (List.mem_of_find?_eq_some hfind) hholds
  · cases h

theorem decode_eq_ok_iff (w : Word) (i : Instr) : decode w = .ok i ↔ encode i = w :=
  ⟨encode_of_decode, fun h => h ▸ decode_encode i⟩

/-- Settles O1: a row holds of its command's words only, and each of those decodes to its command. -/
theorem decodeExactlyTheEncodedWord : Obligations.DecodeExactlyTheEncodedWord :=
  ⟨map_encode_commands, decode_eq_ok_iff⟩

/-- Settles O3: the legal words are those of their commands; each illegal one fails every row. -/
theorem tableWordsDecode : Obligations.TableWordsDecode :=
  ⟨decode_encode .nop, decode_encode .pack, decode_encode .ifft, decode_encode (.fft false),
    decode_encode (.fft true), decode_encode .decode, decode_encode .clrerr, rfl, rfl, rfl⟩

/-! ## The illegal words -/

/-- The legal words as numbers: 0 to 9 and `0x104` (R71). -/
theorem exists_encode_iff (w : Word) : (∃ i, encode i = w) ↔ w.toNat ≤ 9 ∨ w.toNat = 0x104 := by
  have hlist : (∃ i, encode i = w) ↔ w ∈ commands.map encode := by simp [mem_commands]
  rw [hlist, map_encode_commands]
  simp only [List.mem_cons, List.not_mem_nil, or_false, ← BitVec.toNat_inj, BitVec.toNat_ofNat]
  omega

theorem decode_error_iff (w : Word) : (∃ e, decode w = .error e) ↔ ¬∃ i, encode i = w := by
  simp only [← decode_eq_ok_iff]
  cases decode w <;> simp

/-- Settles O2: a number is not among those of `exists_encode_iff` exactly when one of its fields is illegal. -/
theorem illegalWordsByFields : Obligations.IllegalWordsByFields := by
  intro w
  rw [decode_error_iff, exists_encode_iff]
  omega

end Sys2Proof

namespace Sys2Proof.Machine

open Sys2Proof.Safety

/-! ## Machines that a transform cannot tell apart -/

/-- The machines agree on the registers, on the block and on what FFT with the flag `r` reads. -/
structure SameInput (r : Bool) (s s' : State) : Prop where
  len : s'.len = s.len
  stepSize : s'.stepSize = s.stepSize
  qmode : s'.qmode = s.qmode
  matchCount : s'.matchCount = s.matchCount
  err : s'.err = s.err
  table : ∀ m, m < s.lenN → tableOf s' m = tableOf s m
  samples : ∀ n, n < s.lenN → fftInput r s' n = fftInput r s n
  block : ∀ b, b < s.lenL → s'.bb b = s.bb b

/-- The machines, with a legal `LEN`, agree on the spectrum, on the block and on the registers that are used after a
transform. -/
structure SameResult (t t' : State) : Prop where
  legal : t.lenLegal = true
  len : t'.len = t.len
  stepSize : t'.stepSize = t.stepSize
  matchCount : t'.matchCount = t.matchCount
  err : t'.err = t.err
  spectrum : ∀ j, j < t.lenN → spectrumOf t' j = spectrumOf t j
  block : ∀ b, b < t.lenL → t'.bb b = t.bb b

section
variable {s s' : State}

theorem lenL_congr (h : s'.len = s.len) : s'.lenL = s.lenL := congrArg BitVec.toNat h

theorem lenK_congr (h : s'.len = s.len) : s'.lenK = s.lenK := congrArg (· / 2) (lenL_congr h)

theorem lenN_congr (h : s'.len = s.len) : s'.lenN = s.lenN := congrArg (· + 2) (lenL_congr h)

theorem lenLegal_congr (h : s'.len = s.len) : s'.lenLegal = s.lenLegal := by
  rw [State.lenLegal, State.lenLegal, lenL_congr h]

theorem narrowing_congr (h : s'.qmode = s.qmode) : s'.narrowing = s.narrowing := by
  rw [State.narrowing, State.narrowing, h]

end

/-! ## The bodies keep the agreement -/

/-- A forward transform of length `n` reads the samples and the table below `n` only (spec/43_transform.md R102). -/
theorem forwardCell_congr {n : Nat} {x x' t t' : Nat → Cpx} (hx : ∀ i, i < n → x i = x' i)
    (ht : ∀ m, m < n → t m = t' m) {j : Nat} (hj : j < n) : forwardCell n x t j = forwardCell n x' t' j := by
  have hindex : ∀ i, i < n → t (j * i % n) = t' (j * i % n) := fun i _ => ht _ (Nat.mod_lt _ (Nat.zero_lt_of_lt hj))
  rw [forwardCell, forwardCell, sumRe_congr hx hindex, sumIm_congr hx hindex]

section
variable {r : Bool} {s s' : State}

theorem fftBody_none_congr (h : SameInput r s s') : fftBody r s' = none ↔ fftBody r s = none := by
  rw [fftBody_none_iff, fftBody_none_iff, lenN_congr h.len]
  refine exists_congr fun j => and_congr_right fun hj => ?_
  rw [forwardCell_congr h.samples h.table hj]

theorem fftBody_some_congr (h : SameInput r s s') (legal : s.lenLegal = true) {t t' : State}
    (ht : fftBody r s = some t) (ht' : fftBody r s' = some t') : SameResult t t' := by
  obtain ⟨-, -, hL⟩ := (lenLegal_iff s).1 legal
  obtain ⟨hspectrum, -, hblock, -, hregs⟩ := fftBody_result legal ht
  obtain ⟨hspectrum', -, hblock', -, hregs'⟩ := fftBody_result ((lenLegal_congr h.len).trans legal) ht'
  obtain ⟨m, rfl⟩ : ∃ m, t = { s with mem := m } := ⟨_, hregs⟩
  obtain ⟨m', rfl⟩ : ∃ m', t' = { s' with mem := m' } := ⟨_, hregs'⟩
  rw [lenN_congr h.len] at hspectrum'
  refine ⟨legal, h.len, h.stepSize, h.matchCount, h.err, fun j hj => ?_, fun b (hb : b < s.lenL) => ?_⟩
  · rw [hspectrum j hj, hspectrum' j hj, forwardCell_congr h.samples h.table hj]
  · rw [hblock b (by omega), hblock' b (by omega), h.block b hb]

/-- FFT raises on both machines or on neither. -/
theorem fftBody_sameResult (h : SameInput r s s') (legal : s.lenLegal = true) :
    Option.Rel SameResult (fftBody r s) (fftBody r s') := by
  have hnone := fftBody_none_congr h
  cases ht : fftBody r s with
  | none =>
    rw [hnone.2 ht]
    exact .none
  | some t =>
    cases ht' : fftBody r s' with
    | none => cases (hnone.1 ht').symm.trans ht
    | some t' => exact .some (fftBody_some_congr h legal ht ht')

end

section
variable {t t' : State}

/-- UNPACK's byte `i` is made of bin `i + 1` or `i - k + 1`, both below `N` (spec/44_unpack.md R112). -/
theorem unpackedByte_congr (h : SameResult t t') (m : QMode) {i : Nat} (hi : i < t.lenL) :
    unpackedByte t' m (spectrumOf t') i = unpackedByte t m (spectrumOf t) i := by
  obtain ⟨hL, hN, -, -, -⟩ := lengths_of_legal h.legal
  rw [unpackedByte, unpackedByte, lenK_congr h.len, h.stepSize]
  split_ifs
  · rw [h.spectrum _ (by omega)]
  · rw [h.spectrum _ (by omega)]

theorem unpackBody_sameResult (h : SameResult t t') (m : QMode) : SameResult (unpackBody m t) (unpackBody m t') := by
  have legal' : t'.lenLegal = true := (lenLegal_congr h.len).trans h.legal
  refine ⟨h.legal, h.len, h.stepSize, h.matchCount, h.err, fun j hj => ?_, fun b (hb : b < t.lenL) => ?_⟩
  · simpa only [spectrumOf, unpackBody_cell h.legal, unpackBody_cell legal'] using h.spectrum j hj
  · rw [unpackBody_bb h.legal, unpackBody_bb legal', lenL_congr h.len, if_pos hb, if_pos hb, unpackedByte_congr h m hb]

theorem cells_congr (h : SameResult t t') {j : Nat} (hj : j < t.lenN) :
    t'.cell .sr j = t.cell .sr j ∧ t'.cell .si j = t.cell .si j := by
  simpa only [spectrumOf, Cpx.mk.injEq] using h.spectrum j hj

/-- VERIFY counts over bins below `N` and bytes below `L` (spec/45_composite.md R121). -/
theorem matches_congr (h : SameResult t t') : t'.matches = t.matches := by
  obtain ⟨hL, hN, -, -, -⟩ := lengths_of_legal h.legal
  have hrq (v : Int) : t'.rq v = t.rq v := by rw [State.rq, State.rq, h.stepSize]
  rw [State.matches, State.matches, lenK_congr h.len]
  congr 1 <;> refine List.countP_congr fun i hi => ?_ <;> rw [List.mem_range] at hi
  · rw [hrq, (cells_congr h (by omega)).1, h.block i (by omega)]
  · rw [hrq, (cells_congr h (by omega)).2, h.block (t.lenK + i) (by omega)]

theorem setMatch_sameResult (h : SameResult t t') : SameResult (t.setMatch t.matches) (t'.setMatch t'.matches) :=
  { h with matchCount := congrArg (BitVec.ofNat 11) (matches_congr h) }

theorem finish_sameResult (h : SameResult t t') : SameResult t.finish t'.finish := { h with }

/-- What follows a transform keeps the agreement of its results. -/
theorem optionRel_map {o o' : Option State} {f : State → State} (h : Option.Rel SameResult o o')
    (hf : ∀ t t', SameResult t t' → SameResult (f t) (f t')) : Option.Rel SameResult (o.map f) (o'.map f) := by
  cases h with
  | none => exact .none
  | some h => exact .some (hf _ _ h)

end

/-! ## The commands keep the agreement -/

/-- If both outcomes are completions, they agree on `ERR`, on `MATCH` and, without error, on the results. -/
def SameOutcome (o o' : Host.Outcome State Fault Refusal) : Prop :=
  ∀ t t', o = .next t → o' = .next t' →
    t'.err = t.err ∧ t'.matchCount = t.matchCount ∧ (t.err = .noError → SameResult t t')

theorem raise_sameOutcome {s s' : State} (h : s'.matchCount = s.matchCount) {e : ErrCode} (he : e ≠ .noError) :
    SameOutcome (.next (s.raise e)) (.next (s'.raise e)) := by
  rintro _ _ ⟨⟩ ⟨⟩
  exact ⟨rfl, h, fun hnone => absurd hnone he⟩

theorem finish_sameOutcome {t t' : State} (h : SameResult t t') : SameOutcome (.next t.finish) (.next t'.finish) := by
  rintro _ _ ⟨⟩ ⟨⟩
  exact ⟨h.err, h.matchCount, fun _ => finish_sameResult h⟩

section
variable {r : Bool} {s s' : State}

theorem checkLen_sameOutcome (h : SameInput r s s') {b b' : Host.Outcome State Fault Refusal}
    (hb : s.lenLegal = true → SameOutcome b b') : SameOutcome (checkLen s b) (checkLen s' b') := by
  have hlegal := lenLegal_congr h.len
  rcases checkLen_cases s b with ⟨legal, e⟩ | ⟨illegal, e⟩
  · rw [e, checkLen_legal (hlegal.trans legal)]
    exact hb legal
  · rw [e, checkLen_illegal (hlegal.trans illegal)]
    exact raise_sameOutcome h.matchCount (by decide)

theorem checkStep_sameOutcome (h : SameInput r s s') {b b' : Host.Outcome State Fault Refusal}
    (hb : SameOutcome b b') : SameOutcome (checkStep s b) (checkStep s' b') := by
  rcases checkStep_cases s b with ⟨legal, e⟩ | ⟨illegal, e⟩
  · rw [e, checkStep_legal (h.stepSize ▸ legal)]
    exact hb
  · rw [e, checkStep_illegal (h.stepSize.trans illegal)]
    exact raise_sameOutcome h.matchCount (by decide)

theorem checkMode_sameOutcome (h : SameInput r s s') {b b' : QMode → Host.Outcome State Fault Refusal}
    (hb : ∀ m, SameOutcome (b m) (b' m)) : SameOutcome (checkMode s b) (checkMode s' b') := by
  rcases checkMode_cases s b with ⟨m, hm, e⟩ | ⟨hnone, e⟩
  · rw [e, checkMode_legal ((narrowing_congr h.qmode).trans hm)]
    exact hb m
  · rw [e, checkMode_illegal (h.qmode.trans ((narrowing_none_iff s).1 hnone))]
    exact raise_sameOutcome h.matchCount (by decide)

theorem checkResult_sameOutcome (h : SameInput r s s') (ds ds' : List (Nat × Nat)) {o o' : Option State}
    (ho : Option.Rel SameResult o o') : SameOutcome (checkResult s ds o) (checkResult s' ds' o') := by
  cases ho with
  | none => exact raise_sameOutcome (s := s.unspecify ds) (s' := s'.unspecify ds') h.matchCount (by decide)
  | some ht => exact finish_sameOutcome ht

theorem execFft_sameOutcome (h : SameInput r s s') : SameOutcome (exec (.fft r) s) (exec (.fft r) s') :=
  checkLen_sameOutcome h fun legal => checkResult_sameOutcome h _ _ (fftBody_sameResult h legal)

theorem execDecode_sameOutcome (h : SameInput true s s') : SameOutcome (exec .decode s) (exec .decode s') :=
  checkLen_sameOutcome h fun legal => checkStep_sameOutcome h <| checkMode_sameOutcome h fun m =>
    checkResult_sameOutcome h _ _ <|
      optionRel_map (fftBody_sameResult h legal) fun _ _ ht => unpackBody_sameResult ht m

theorem execVerify_sameOutcome (h : SameInput true s s') : SameOutcome (exec .verify s) (exec .verify s') :=
  checkLen_sameOutcome h fun legal => checkStep_sameOutcome h <| checkResult_sameOutcome h _ _ <|
    optionRel_map (fftBody_sameResult h legal) fun _ _ => setMatch_sameResult

end

/-- With `R = 1` the samples are those of `AR` alone (R72). -/
theorem fftInput_true_congr {s s' : State} {n : Nat} (h : s'.cell .ar n = s.cell .ar n) :
    fftInput true s' n = fftInput true s n := congrArg (Cpx.mk · 0) h

theorem exec_len {i : Instr} {s t : State} (h : exec i s = .next t) : t.len = s.len := by
  obtain ⟨u, hu, hcompletion⟩ := exec_completes i s
  cases hu.symm.trans h
  obtain ⟨-, hlen, -⟩ := hcompletion.config
  exact hlen

/-- Settles O43: the three commands read the samples through `fftInput true`. -/
theorem realTransformIgnoresImaginarySamples : Obligations.RealTransformIgnoresImaginarySamples := by
  intro s s' t t' i hi hlen hstep hmode hmatch herr herr' htable hsamples hblock ht ht'
  have h : SameInput true s s' := ⟨hlen, hstep, hmode, hmatch, herr'.trans herr.symm, htable,
    fun n hn => fftInput_true_congr (hsamples n hn), hblock⟩
  have houtcome : SameOutcome (exec i s) (exec i s') := by
    rcases hi with rfl | rfl | rfl
    · exact execFft_sameOutcome h
    · exact execDecode_sameOutcome h
    · exact execVerify_sameOutcome h
  obtain ⟨hsameErr, hsameMatch, hresult⟩ := houtcome t t' ht ht'
  rw [← lenN_congr (exec_len ht), ← lenL_congr (exec_len ht)]
  exact ⟨hsameErr, hsameMatch, fun hnone => ⟨(hresult hnone).spectrum, (hresult hnone).block⟩⟩

/-! ## The script line `LDB` -/

/-- The bytes of four bytes' word are the four bytes (spec/20_memory.md R52). -/
theorem wordBytes_bytesWord (b0 b1 b2 b3 : Byte) : wordBytes (bytesWord b0 b1 b2 b3) = [b0, b1, b2, b3] := by
  have h0 := b0.isLt; have h1 := b1.isLt; have h2 := b2.isLt; have h3 := b3.isLt
  simp only [wordBytes, List.cons.injEq, and_true, ← BitVec.toNat_inj, BitVec.extractLsb'_toNat, bytesWord_toNat,
    Nat.shiftRight_eq_div_pow]
  omega

theorem run_succ {s t : State} (h : step s = .next t) (k : Nat) :
    Host.Core.run Sys2Proof.core (k + 1) s = Host.Core.run Sys2Proof.core k t := by
  have hcore : Sys2Proof.core.step s = .next t := h
  simp only [Host.Core.run, hcore]

/-- One write of `LDB` stores its four bytes. -/
theorem step_write_block {s : State} {off : Nat} {b0 b1 b2 b3 : Byte} {rest : List Event} (idle : s.busy = false)
    (hoff : memoryOffset off = true) (hev : s.events = .write off (bytesWord b0 b1 b2 b3) :: rest) :
    step s = .next { s.storeBytes (4 * off) [b0, b1, b2, b3] with events := rest } := by
  rw [step_write hev, hostWrite_memory_idle (s := { s with events := rest }) hoff _ idle,
    State.storeWords, List.flatMap_singleton, wordBytes_bytesWord]
  rfl

/-- The writes of `LDB` store the block, a word at a time. -/
theorem run_loadBlock (off : Nat) (bs : List Byte) (s : State) (idle : s.busy = false) (hlen : bs.length % 4 = 0)
    (lo : 0x0400 ≤ off) (hi : 4 * off + bs.length ≤ 4 * 0x0500) (hev : s.events = loadBlock off bs) :
    Host.Core.run Sys2Proof.core (loadBlock off bs).length s =
      .next { s.storeBytes (4 * off) bs with events := [] } := by
  fun_induction loadBlock off bs generalizing s with
  | case1 off b0 b1 b2 b3 bs ih =>
    simp only [List.length_cons] at hlen hi
    have hoff : memoryOffset off = true := by rw [memoryOffset_iff]; omega
    rw [List.length_cons, run_succ (step_write_block idle hoff hev)]
    exact ih _ idle (by omega) (by omega) (by omega) rfl
  | case2 bs off hshort =>
    obtain rfl : bs = [] := by
      rcases bs with _ | ⟨b0, _ | ⟨b1, _ | ⟨b2, _ | ⟨b3, bs⟩⟩⟩⟩
      · rfl
      · cases hlen
      · cases hlen
      · cases hlen
      · exact (hshort b0 b1 b2 b3 bs rfl).elim
    have hs : s = { s with events := [] } := by rw [← hev]
    exact congrArg Host.Outcome.next hs

/-- Settles O59: the block of `run_loadBlock`, read back. -/
theorem ldbLoadsTheBlock : Obligations.LdbLoadsTheBlock := by
  intro s bs idle hlen hle hev
  rw [show scriptEvents [.ldb bs] = loadBlock 0x0400 bs from List.append_nil _] at hev
  refine ⟨_, hev ▸ run_loadBlock 0x0400 bs s idle hlen le_rfl (by omega) hev, fun i hi => ?_, fun a ha => ?_⟩
  · exact (bb_storeBytes s bs i).trans (if_pos hi)
  · exact (byteAt_storeBytes s bbAddr bs a).trans (if_neg ha)

end Sys2Proof.Machine

/-! # The commands of spec/40_control.md

Offer, acceptance and completion (R85, R86), the checks before a body (R87), and what no command changes. -/

namespace Sys2Proof.Machine

open Sys2Proof.Safety

/-! ## Completion -/

/-- The engine's turn on a busy engine, whether the events give it or the host has nothing more to do. -/
theorem step_complete {s : State} (busy : s.busy = true) :
    (s.events = [] → step s = complete s) ∧
    (∀ rest, s.events = .engine :: rest → step s = complete { s with events := rest }) :=
  ⟨fun hev => (step_idle hev).trans (engineTurn_busy busy),
    fun _ hev => (step_engine hev).trans (engineTurn_busy busy)⟩

/-- Settles O9: a completion executes the decoded command. -/
theorem stepRunsTheDecodedCommand : Obligations.StepRunsTheDecodedCommand := by
  intro s i busy hdecode
  obtain ⟨hnil, hengine⟩ := step_complete busy
  exact ⟨fun hev => (hnil hev).trans (complete_ok hdecode), fun rest hev => (hengine rest hev).trans (complete_ok hdecode)⟩

/-- Settles O11: a completion of an illegal word raises `ERR_CMD`. -/
theorem illegalCommandRaisesErrCmd : Obligations.IllegalCommandRaisesErrCmd := by
  intro s e rest busy hdecode hev
  obtain ⟨-, hengine⟩ := step_complete busy
  exact (hengine rest hev).trans (complete_error hdecode)

/-! ## The offer of a command -/

theorem hostWrite_cmd (w : Word) (s : State) : hostWrite 0x0001 w s = .next (offer w s) := rfl

theorem halted_iff (s : State) : s.halted = true ↔ s.err ≠ .noError := by simp [State.halted]

theorem offer_halted {s : State} {w : Word} (halted : s.err ≠ .noError) (hw : w ≠ 0x00000009#32) :
    offer w s = s.reject := by
  simp [offer, (halted_iff s).2 halted, hw]

theorem offer_accepted {s : State} {w : Word} (idle : s.busy = false)
    (allowed : s.err = .noError ∨ w = 0x00000009#32) : offer w s = s.accept w := by
  rcases allowed with running | rfl
  · simp [offer, idle, State.halted, running]
  · simp [offer, idle]

theorem step_offer_accepted {s : State} {w : Word} {rest : List Event} (hev : s.events = .write 0x0001 w :: rest)
    (idle : s.busy = false) (allowed : s.err = .noError ∨ w = 0x00000009#32) :
    step s = .next { s with events := rest, cur := w, busy := true, done := false } := by
  rw [step_write hev, hostWrite_cmd, offer_accepted (s := { s with events := rest }) idle allowed]
  rfl

/-- Settles O57: the three cases of `offer`. -/
theorem offerIsAcceptedOrRejected : Obligations.OfferIsAcceptedOrRejected := by
  intro s w rest hev
  split_ifs with busy hrejected
  · rw [step_write hev, hostWrite_cmd, offer_busy (s := { s with events := rest }) busy]
    rfl
  · obtain ⟨halted, hw⟩ := hrejected
    rw [step_write hev, hostWrite_cmd, offer_halted (s := { s with events := rest }) halted hw]
    rfl
  · exact step_offer_accepted hev (by simpa using busy) (by tauto)

/-- Settles O10: the write is accepted, and the engine's turn executes the word written. -/
theorem offeredCommandIsExecuted : Obligations.OfferedCommandIsExecuted := by
  intro s i idle allowed hev
  have hword : s.err = .noError ∨ encode i = 0x00000009#32 := allowed.imp_right (congrArg encode)
  have haccept := step_offer_accepted hev idle hword
  obtain ⟨-, hengine⟩ := stepRunsTheDecodedCommand
    { s with events := [.engine], cur := encode i, busy := true, done := false } i rfl (decode_encode i)
  obtain ⟨t, ht, -⟩ := exec_completes i { s with events := [], cur := encode i, busy := true, done := false }
  rw [run_succ haccept, run_succ ((hengine [] rfl).trans ht), ht]
  rfl

/-! ## The checks before a body -/

/-- A command that uses `LEN` begins with check 2 of R87. -/
theorem exec_eq_checkLen {i : Instr} (h : usesLen i = true) (s : State) : ∃ b, exec i s = checkLen s b := by
  cases i with
  | nop => cases h
  | clrerr => cases h
  | _ => exact ⟨_, rfl⟩

/-- A command that uses `STEP` goes on with the first line of check 3. -/
theorem exec_eq_checkStep {i : Instr} (h : usesStep i = true) (s : State) :
    ∃ b, exec i s = checkLen s (checkStep s b) := by
  cases i with
  | pack | unpack | encode | decode | verify => exact ⟨_, rfl⟩
  | _ => cases h

/-- A command that uses `QMODE` goes on with both lines of check 3. -/
theorem exec_eq_checkMode {i : Instr} (h : usesMode i = true) (s : State) :
    ∃ b, exec i s = checkLen s (checkStep s (checkMode s b)) := by
  cases i with
  | unpack | decode => exact ⟨_, rfl⟩
  | _ => cases h

/-- Settles O12: check 2 raises before anything else. -/
theorem illegalLenRaisesErrLen : Obligations.IllegalLenRaisesErrLen := by
  intro i s huses hlen
  have illegal : s.lenLegal = false := Bool.eq_false_iff.2 (mt (lenLegal_iff s).1 hlen)
  obtain ⟨b, hexec⟩ := exec_eq_checkLen huses s
  exact hexec.trans (checkLen_illegal illegal b)

/-- Settles O13: check 2 passes, and a line of check 3 raises. -/
theorem illegalConfigRaisesErrCfg : Obligations.IllegalConfigRaisesErrCfg := by
  intro i s heven hlo hhi hconfig
  have legal : s.lenLegal = true := (lenLegal_iff s).2 ⟨heven, hlo, hhi⟩
  rcases hconfig with ⟨huses, hzero⟩ | ⟨huses, hmode⟩
  · obtain ⟨b, hexec⟩ := exec_eq_checkStep huses s
    rw [hexec, checkLen_legal legal, checkStep_illegal hzero]
    rfl
  · obtain ⟨b, hexec⟩ := exec_eq_checkMode huses s
    rw [hexec, checkLen_legal legal]
    by_cases hzero : s.stepSize = 0#16
    · rw [checkStep_illegal hzero]
      rfl
    · rw [checkStep_legal hzero, checkMode_illegal hmode]
      rfl

/-! ## What no command changes -/

theorem SoundStore.rej_err {s t : State} (h : SoundStore s t) : t.rej = s.rej ∧ t.err = s.err := by
  obtain ⟨m, rfl, -⟩ := h
  exact ⟨rfl, rfl⟩

/-- The outcome keeps `REJ`, and keeps `ERR` or takes the code of a check or of an overflow (R87 checks 2 to 4). -/
def KeepsRejAndErr (s : State) (o : Host.Outcome State Fault Refusal) : Prop :=
  ∃ t, o = .next t ∧ t.rej = s.rej ∧ (t.err = s.err ∨ t.err = .len ∨ t.err = .cfg ∨ t.err = .vod)

theorem keepsRejAndErr_completed {s t : State} (h : t.rej = s.rej ∧ t.err = s.err) : KeepsRejAndErr s (completed t) := by
  obtain ⟨hrej, herr⟩ := h
  exact ⟨_, rfl, hrej, .inl herr⟩

theorem keepsRejAndErr_raised (s : State) {e : ErrCode} (he : e = .len ∨ e = .cfg ∨ e = .vod) :
    KeepsRejAndErr s (raised s e) := ⟨_, rfl, rfl, .inr he⟩

section
variable {s : State}

theorem checkLen_keepsRejAndErr {b : Host.Outcome State Fault Refusal} (h : s.lenLegal = true → KeepsRejAndErr s b) :
    KeepsRejAndErr s (checkLen s b) := by
  rcases checkLen_cases s b with ⟨legal, e⟩ | ⟨-, e⟩ <;> rw [e]
  · exact h legal
  · exact keepsRejAndErr_raised s (by simp)

theorem checkStep_keepsRejAndErr {b : Host.Outcome State Fault Refusal} (h : KeepsRejAndErr s b) :
    KeepsRejAndErr s (checkStep s b) := by
  rcases checkStep_cases s b with ⟨-, e⟩ | ⟨-, e⟩ <;> rw [e]
  · exact h
  · exact keepsRejAndErr_raised s (by simp)

theorem checkMode_keepsRejAndErr {b : QMode → Host.Outcome State Fault Refusal} (h : ∀ m, KeepsRejAndErr s (b m)) :
    KeepsRejAndErr s (checkMode s b) := by
  rcases checkMode_cases s b with ⟨m, -, e⟩ | ⟨-, e⟩ <;> rw [e]
  · exact h m
  · exact keepsRejAndErr_raised s (by simp)

theorem checkResult_keepsRejAndErr {ds : List (Nat × Nat)} {r : Option State}
    (h : ∀ t, r = some t → t.rej = s.rej ∧ t.err = s.err) : KeepsRejAndErr s (checkResult s ds r) := by
  cases r with
  | none => exact ⟨_, rfl, rfl, by simp⟩
  | some t => exact keepsRejAndErr_completed (h t rfl)

end

/-- Every command but CLRERR: its checks raise or its body stores to memory. -/
theorem exec_keepsRejAndErr {i : Instr} (hi : i ≠ .clrerr) (s : State) : KeepsRejAndErr s (exec i s) := by
  cases i with
  | nop => exact keepsRejAndErr_completed ⟨rfl, rfl⟩
  | clrerr => exact absurd rfl hi
  | pack =>
    exact checkLen_keepsRejAndErr fun _ => checkStep_keepsRejAndErr <| keepsRejAndErr_completed ⟨rfl, rfl⟩
  | sym =>
    refine checkLen_keepsRejAndErr fun legal => ?_
    cases hbody : symBody s with
    | none => exact keepsRejAndErr_raised s (by simp)
    | some t => exact keepsRejAndErr_completed (symBody_soundStore legal hbody).rej_err
  | ifft =>
    exact checkLen_keepsRejAndErr fun legal => checkResult_keepsRejAndErr fun _ ht =>
      (ifftBody_soundStore legal ht).rej_err
  | fft r =>
    exact checkLen_keepsRejAndErr fun legal => checkResult_keepsRejAndErr fun _ ht =>
      (fftBody_soundStore legal ht).rej_err
  | unpack =>
    exact checkLen_keepsRejAndErr fun _ => checkStep_keepsRejAndErr <| checkMode_keepsRejAndErr fun _ =>
      keepsRejAndErr_completed ⟨rfl, rfl⟩
  | encode =>
    exact checkLen_keepsRejAndErr fun legal => checkStep_keepsRejAndErr <| checkResult_keepsRejAndErr fun _ ht =>
      (encodeBody_soundStore legal ht).rej_err
  | decode =>
    refine checkLen_keepsRejAndErr fun legal => checkStep_keepsRejAndErr <| checkMode_keepsRejAndErr fun m =>
      checkResult_keepsRejAndErr fun _ ht => ?_
    obtain ⟨u, hu, rfl⟩ := Option.map_eq_some_iff.1 ht
    exact (fftBody_soundStore legal hu).rej_err
  | verify =>
    refine checkLen_keepsRejAndErr fun legal => checkStep_keepsRejAndErr <| checkResult_keepsRejAndErr fun _ ht => ?_
    obtain ⟨u, hu, rfl⟩ := Option.map_eq_some_iff.1 ht
    exact (fftBody_soundStore legal hu).rej_err

/-- Settles O18: `Completion` says all of it but what becomes of `REJ` and `ERR`. -/
theorem commandsKeepTheRegisters : Obligations.CommandsKeepTheRegisters := by
  intro i s t ht
  obtain ⟨u, hu, hcompletion⟩ := exec_completes i s
  cases hu.symm.trans ht
  obtain ⟨⟨hbusy, hdone⟩, hconfig, -, -, hmatch⟩ := hcompletion
  refine ⟨hbusy, hdone, hconfig, fun hi => hmatch.resolve_right fun hverify => hi hverify.1, fun hi => ?_, ?_⟩
  · obtain ⟨v, hv, hkeeps⟩ := exec_keepsRejAndErr hi s
    cases hv.symm.trans ht
    exact hkeeps
  · rintro rfl
    cases ht
    rfl

/-! ## SYM and the transforms use neither `STEP` nor `QMODE` -/

/-- The machine with other values in `STEP` and `CTRL.QMODE`. -/
def State.withConfig (st : BitVec 16) (q : BitVec 2) (s : State) : State := { s with stepSize := st, qmode := q }

/-- The second outcome is the first with other values in `STEP` and `CTRL.QMODE`. -/
def SameButConfig (st : BitVec 16) (q : BitVec 2) (o o' : Host.Outcome State Fault Refusal) : Prop :=
  ∃ t, o = .next t ∧ o' = .next (t.withConfig st q)

section
variable {st : BitVec 16} {q : BitVec 2} {s : State}

/-- SYM mirrors cells, and `LEN` alone says which. -/
theorem symBody_withConfig : symBody (s.withConfig st q) = (symBody s).map (State.withConfig st q) := by
  have hoverflows : (s.withConfig st q).negationOverflows = s.negationOverflows := rfl
  rw [symBody, symBody, hoverflows]
  cases s.negationOverflows <;> rfl

theorem storeResults_withConfig (re im : Region) (outs : List Cpx) :
    (s.withConfig st q).storeResults re im outs = (s.storeResults re im outs).map (State.withConfig st q) := by
  rw [State.storeResults, State.storeResults]
  cases outs.all Cpx.fits <;> rfl

theorem ifftBody_withConfig : ifftBody (s.withConfig st q) = (ifftBody s).map (State.withConfig st q) :=
  storeResults_withConfig .ar .ai (inverseOutputs s.lenN (s.complexCells .sr .si s.lenN) s.table)

theorem fftBody_withConfig (r : Bool) : fftBody r (s.withConfig st q) = (fftBody r s).map (State.withConfig st q) :=
  storeResults_withConfig .sr .si (forwardOutputs s.lenN (s.samples r) s.table)

theorem checkLen_sameButConfig {b b' : Host.Outcome State Fault Refusal} (h : SameButConfig st q b b') :
    SameButConfig st q (checkLen s b) (checkLen (s.withConfig st q) b') := by
  have hlegal : (s.withConfig st q).lenLegal = s.lenLegal := rfl
  rcases checkLen_cases s b with ⟨legal, e⟩ | ⟨illegal, e⟩
  · rw [e, checkLen_legal (hlegal.trans legal)]
    exact h
  · rw [e, checkLen_illegal (hlegal.trans illegal)]
    exact ⟨_, rfl, rfl⟩

/-- On `ERR_VOD` both machines take the same draw. -/
theorem checkResult_sameButConfig (ds : List (Nat × Nat)) (o : Option State) :
    SameButConfig st q (checkResult s ds o) (checkResult (s.withConfig st q) ds (o.map (State.withConfig st q))) := by
  cases o <;> exact ⟨_, rfl, rfl⟩

theorem execSym_sameButConfig : SameButConfig st q (exec .sym s) (exec .sym (s.withConfig st q)) := by
  refine checkLen_sameButConfig ?_
  rw [symBody_withConfig]
  cases symBody s <;> exact ⟨_, rfl, rfl⟩

theorem execIfft_sameButConfig : SameButConfig st q (exec .ifft s) (exec .ifft (s.withConfig st q)) := by
  refine checkLen_sameButConfig ?_
  rw [ifftBody_withConfig]
  exact checkResult_sameButConfig s.sampleBytes (ifftBody s)

theorem execFft_sameButConfig (r : Bool) : SameButConfig st q (exec (.fft r) s) (exec (.fft r) (s.withConfig st q)) := by
  refine checkLen_sameButConfig ?_
  rw [fftBody_withConfig]
  exact checkResult_sameButConfig s.spectrumBytes (fftBody r s)

end

/-- Settles O14: the check of `LEN` and the bodies read neither register. -/
theorem transformsIgnoreStepAndMode : Obligations.TransformsIgnoreStepAndMode := by
  rintro i s st q (rfl | rfl | ⟨r, rfl⟩)
  · exact execSym_sameButConfig
  · exact execIfft_sameButConfig
  · exact execFft_sameButConfig r

/-! ## The commands that touch no data -/

theorem exec_nop (s : State) : exec .nop s = .next s.finish := rfl

theorem exec_clrerr (s : State) : exec .clrerr s = .next s.clearErrors.finish := rfl

/-- Settles O20: the body is empty (R88), so that `finish` is all. -/
theorem nopCompletes : Obligations.NopCompletes := ⟨rfl, exec_nop⟩

/-- Settles O21: the body is `clearErrors` (R89). -/
theorem clrerrClearsErrAndRej : Obligations.ClrerrClearsErrAndRej := ⟨rfl, exec_clrerr⟩

end Sys2Proof.Machine

/-! # The dequantizer and packer of spec/41_pack.md

The quantizer against the dequantizer (R90, R110), and the head spectrum that PACK assembles (R91). -/

namespace Sys2Proof.Machine

open Sys2Proof.Safety

/-! ## The quantizer and the dequantizer -/

/-- Rounded division undoes an exact multiple. -/
theorem rdiv_mul_cancel {d : Int} (hd : 0 < d) (q : Int) : rdiv (q * d) d = q :=
  (rdiv_eq_iff hd (q * d) q).2 ⟨by linarith, by linarith⟩

/-- Rounded division by a positive integer leaves a range `-B .. B` of integers. -/
theorem abs_rdiv_le {d : Int} (hd : 0 < d) {a B : Int} (ha : |a| ≤ B) : |rdiv a d| ≤ B := by
  obtain ⟨hlo, hhi⟩ := rdiv_bounds hd a
  obtain ⟨halo, hahi⟩ := abs_le.1 ha
  have hB : B ≤ d * B := le_mul_of_one_le_left ((abs_nonneg a).trans ha) hd
  have hlt : rdiv a d < B + 1 := lt_of_mul_lt_mul_left (by linarith : 2 * d * rdiv a d < 2 * d * (B + 1)) (by omega)
  have hgt : -B - 1 < rdiv a d := lt_of_mul_lt_mul_left (by linarith : 2 * d * (-B - 1) < 2 * d * rdiv a d) (by omega)
  exact abs_le.2 ⟨by omega, by omega⟩

theorem stepSize_pos {s : State} (h : s.stepSize ≠ 0#16) : (0 : Int) < s.stepSize.toNat :=
  Int.natCast_pos.2 (Nat.pos_of_ne_zero fun h0 => h (BitVec.eq_of_toNat_eq h0))

theorem rq_deq {s : State} (h : s.stepSize ≠ 0#16) (b : Byte) : s.rq (s.deq b) = b.toNat :=
  rdiv_mul_cancel (stepSize_pos h) b.toNat

/-- The exact interval of R110, both ends doubled. -/
theorem rq_eq_iff {s : State} (h : s.stepSize ≠ 0#16) (v b : Int) :
    s.rq v = b ↔
      2 * b * s.stepSize.toNat - s.stepSize.toNat ≤ 2 * v ∧ 2 * v < 2 * b * s.stepSize.toNat + s.stepSize.toNat := by
  rw [mul_right_comm 2 b]
  exact rdiv_eq_iff (stepSize_pos h) v b

/-- A cell value quantizes to at most `2^31` in magnitude, reached at `STEP = 1`. -/
theorem abs_rq_le {s : State} (h : s.stepSize ≠ 0#16) {v : Int} (hv : in32 v = true) : |s.rq v| ≤ 2 ^ 31 := by
  obtain ⟨hlo, hhi⟩ := in32_iff.1 hv
  exact abs_rdiv_le (stepSize_pos h) (abs_le.2 ⟨hlo, by omega⟩)

/-- Settles O45: both maps are multiplication and rounded division by the same positive `STEP`. -/
theorem quantizerInvertsTheDequantizer : Obligations.QuantizerInvertsTheDequantizer := by
  intro s h
  refine ⟨fun b => ?_, fun v => ⟨rfl, abs_rq_le h, rq_eq_iff h v⟩⟩
  obtain ⟨hnonneg, hmax⟩ := deq_range s b
  exact ⟨rfl, hnonneg, hmax, rq_deq h b⟩

/-! ## PACK -/

theorem finish_byteAt (s : State) (a : Nat) : s.finish.byteAt a = s.byteAt a := byteAt_congr rfl rfl a

theorem finish_cell (s : State) (r : Region) (j : Nat) : s.finish.cell r j = s.cell r j := cell_congr rfl rfl r j

theorem exec_pack_legal {s : State} (legal : s.lenLegal = true) (hstep : s.stepSize ≠ 0#16) :
    exec .pack s = .next (packBody s).finish :=
  (checkLen_legal legal _).trans (checkStep_legal hstep _)

section
variable {s : State} (legal : s.lenLegal = true) {j : Nat}
include legal

/-- The real part of a head bin (R91): the sentinel, a byte of the block's first half, or the terminal 0. -/
theorem packBody_sr_head (hj : j ≤ s.lenK + 1) :
    (packBody s).cell .sr j = if j = 0 then s.sent.toInt else if j ≤ s.lenK then s.deq (s.bb (j - 1)) else 0 := by
  obtain ⟨-, -, -, hK, -⟩ := lengths_of_legal legal
  rw [packBody_sr legal (by omega), if_pos hj, headRe_getD s j hj]

/-- The imaginary part of a head bin (R91): 0, a byte of the block's second half, or the terminal 0. -/
theorem packBody_si_head (hj : j ≤ s.lenK + 1) :
    (packBody s).cell .si j = if j = 0 then 0 else if j ≤ s.lenK then s.deq (s.bb (s.lenK + j - 1)) else 0 := by
  obtain ⟨-, -, -, hK, -⟩ := lengths_of_legal legal
  rw [packBody_si legal (by omega), if_pos hj, headIm_getD s j hj]

theorem packBody_sentinel : (packBody s).cell .sr 0 = s.sent.toInt ∧ (packBody s).cell .si 0 = 0 :=
  ⟨packBody_sr_head legal (Nat.zero_le _), packBody_si_head legal (Nat.zero_le _)⟩

/-- Bin `j` pairs byte `j - 1` with byte `k + j - 1`. -/
theorem packBody_interior (h1 : 1 ≤ j) (hk : j ≤ s.lenK) :
    (packBody s).cell .sr j = s.deq (s.bb (j - 1)) ∧ (packBody s).cell .si j = s.deq (s.bb (s.lenK + j - 1)) := by
  rw [packBody_sr_head legal (by omega), packBody_si_head legal (by omega)]
  simp only [Nat.ne_of_gt h1, hk, if_true, if_false, and_self]

theorem packBody_terminal : (packBody s).cell .sr (s.lenK + 1) = 0 ∧ (packBody s).cell .si (s.lenK + 1) = 0 := by
  rw [packBody_sr_head legal le_rfl, packBody_si_head legal le_rfl]
  simp

end

/-- Settles O22: the body writes the head, and `finish` touches no cell. -/
theorem packAssemblesTheHead : Obligations.PackAssemblesTheHead := by
  intro s legal hstep
  have hconfig := (completion_finish .pack (packBody_soundStore legal)).config
  obtain ⟨hsent, hzero⟩ := packBody_sentinel legal
  obtain ⟨hre, him⟩ := packBody_terminal legal
  refine ⟨_, exec_pack_legal legal hstep, ⟨rfl, rfl, rfl, rfl⟩, hconfig, rfl, ?_⟩
  simp only [finish_cell, finish_byteAt]
  exact ⟨hsent, hzero, fun _ h1 hk => packBody_interior legal h1 hk, hre, him, packBody_byteAt s⟩

end Sys2Proof.Machine

/-! # The conjugate-symmetry enforcer of spec/42_symmetry.md

What SYM writes and when it raises (R95), and the Hermitian spectrum that PACK and SYM leave (R96). -/

namespace Sys2Proof.Machine

open Sys2Proof.Safety

/-! ## SYM -/

section
variable {s : State} (legal : s.lenLegal = true)
include legal

theorem exec_sym_some {t : State} (h : symBody s = some t) : exec .sym s = .next t.finish := by
  rw [exec, execSym, checkLen_legal legal, h]
  rfl

theorem exec_sym_none (h : symBody s = none) : exec .sym s = .next (s.raise .vod) := by
  rw [exec, execSym, checkLen_legal legal, h]
  rfl

/-- Bin `N - j` lies in the part of the spectrum that SYM writes, and its mirror is bin `j`. -/
theorem symBody_mirror {t : State} (h : symBody s = some t) {j : Nat} (h1 : 1 ≤ j) (hk : j ≤ s.lenK) :
    t.cell .sr (s.lenN - j) = s.cell .sr j ∧ t.cell .si (s.lenN - j) = -s.cell .si j := by
  obtain ⟨-, hN, -, hK, -⟩ := lengths_of_legal legal
  obtain ⟨hre, him, -⟩ := symBody_result legal h
  have hwritten : s.lenK + 2 ≤ s.lenN - j ∧ s.lenN - j < s.lenN := by omega
  have hback : s.lenN - (s.lenN - j) = j := by omega
  rw [hre _ (by omega), him _ (by omega), if_pos hwritten, if_pos hwritten, hback]
  exact ⟨rfl, rfl⟩

end

/-- Settles O23: the two cases are those of `symBody`, and `finish` touches no cell. -/
theorem symMirrorsTheInterior : Obligations.SymMirrorsTheInterior := by
  intro s legal
  refine ⟨fun fits => ?_, fun overflows => exec_sym_none legal ((symBody_none_iff s).2 overflows)⟩
  obtain ⟨t, ht⟩ : ∃ t, symBody s = some t := ⟨_, symBody_some fits⟩
  have hmirror {j : Nat} (h1 : 1 ≤ j) (hk : j ≤ s.lenK) := symBody_mirror legal ht h1 hk
  obtain ⟨-, -, -, -, hframe, -⟩ := symBody_result legal ht
  obtain ⟨m, rfl, -⟩ := symBody_soundStore legal ht
  refine ⟨_, exec_sym_some legal ht, ⟨rfl, rfl, rfl, rfl⟩, configKept_refl s, rfl, ?_⟩
  simp only [finish_cell, finish_byteAt]
  exact ⟨fun _ h1 hk => hmirror h1 hk, hframe⟩

/-! ## PACK, then SYM -/

/-- A cell is the word of its four bytes. -/
theorem cell_eq_of_byteAt_eq {s t : State} {r : Region} {j : Nat}
    (h : ∀ b < 4, t.byteAt (4 * (r.base + j) + b) = s.byteAt (4 * (r.base + j) + b)) : t.cell r j = s.cell r j := by
  have h0 := h 0 (by decide)
  simp only [Nat.add_zero] at h0
  simp only [State.cell, State.wordAt, h0, h 1 (by decide), h 2 (by decide), h 3 (by decide)]

/-- The head bins `0 .. k+1` are none that SYM writes (R95). -/
theorem spectrumOf_head_of_symFrame {s t : State} (legal : s.lenLegal = true)
    (hframe : ∀ a, ¬Writes .sym s a → t.byteAt a = s.byteAt a) {j : Nat} (hj : j ≤ s.lenK + 1) :
    spectrumOf t j = spectrumOf s j := by
  obtain ⟨-, -, -, hK, hN⟩ := lengths_of_legal legal
  have hre : t.cell .sr j = s.cell .sr j := cell_eq_of_byteAt_eq fun b hb =>
    hframe _ (by simp only [Writes, inCells, Region.base]; omega)
  have him : t.cell .si j = s.cell .si j := cell_eq_of_byteAt_eq fun b hb =>
    hframe _ (by simp only [Writes, inCells, Region.base]; omega)
  rw [spectrumOf, spectrumOf, hre, him]

/-- A spectrum with real sentinel and terminal bins becomes Hermitian, its head kept (R96). -/
theorem exec_sym_hermitian {s : State} (legal : s.lenLegal = true) (hsentinel : s.cell .si 0 = 0)
    (hterminal : s.cell .si (s.lenK + 1) = 0) (hfits : ∀ j, 1 ≤ j → j ≤ s.lenK → s.cell .si j ≠ -2 ^ 31) :
    ∃ t, exec .sym s = .next t ∧ t.err = s.err ∧ Hermitian t ∧
      ∀ j, j ≤ s.lenK + 1 → spectrumOf t j = spectrumOf s j := by
  obtain ⟨-, hN, -⟩ := lengths_of_legal legal
  obtain ⟨t, hsym, ⟨-, -, -, herr⟩, -, -, hmirror, hframe⟩ := (symMirrorsTheInterior s legal).1 hfits
  have hhead (j : Nat) (hj : j ≤ s.lenK + 1) := spectrumOf_head_of_symFrame legal hframe hj
  have him (j : Nat) (hj : j ≤ s.lenK + 1) : t.cell .si j = s.cell .si j := congrArg Cpx.im (hhead j hj)
  have hre (j : Nat) (hj : j ≤ s.lenK + 1) : t.cell .sr j = s.cell .sr j := congrArg Cpx.re (hhead j hj)
  have hhalf : s.lenN / 2 = s.lenK + 1 := by omega
  refine ⟨t, hsym, herr, ?_, hhead⟩
  rw [Hermitian, lenN_congr (exec_len hsym), hhalf]
  refine ⟨(him 0 (Nat.zero_le _)).trans hsentinel, (him _ le_rfl).trans hterminal, fun j h1 hk => ?_⟩
  rw [hre j (by omega), him j (by omega)]
  exact hmirror j h1 hk

/-- Settles O33: PACK leaves real sentinel and terminal bins and no negative imaginary part, so SYM does not raise. -/
theorem packThenSymIsHermitian : Obligations.PackThenSymIsHermitian := by
  intro s legal hstep
  obtain ⟨-, hN, -⟩ := lengths_of_legal legal
  obtain ⟨a, hpack, ⟨-, -, -, haerr⟩, -, -, hre0, him0, hinterior, hrek, himk, -⟩ := packAssemblesTheHead s legal hstep
  have hlen := exec_len hpack
  have hhalf : s.lenN / 2 = s.lenK + 1 := by omega
  rw [← lenK_congr hlen] at hinterior hrek himk hhalf
  have hfits (j : Nat) (h1 : 1 ≤ j) (hk : j ≤ a.lenK) : a.cell .si j ≠ -2 ^ 31 := by
    obtain ⟨-, him⟩ := hinterior j h1 hk
    have hnonneg : 0 ≤ a.cell .si j := him ▸ by positivity
    omega
  obtain ⟨b, hsym, hberr, hhermitian, hhead⟩ :=
    exec_sym_hermitian ((lenLegal_congr hlen).trans legal) him0 himk hfits
  refine ⟨a, b, hpack, hsym, hberr.trans haerr, hhermitian, ?_, ?_⟩
  · rw [hhead 0 (Nat.zero_le _), spectrumOf, hre0, him0]
  · rw [hhalf, hhead _ le_rfl, spectrumOf, hrek, himk]

end Sys2Proof.Machine

/-! # The transforms of spec/43_transform.md

What IFFT and FFT compute, raise and read (R100 to R102). -/

namespace Sys2Proof.Machine

open Sys2Proof.Safety

/-! ## How a transform ends -/

/-- The transform `i` of `s` ended without error in `t`, its results are `f 0, …, f (N-1)`, and nothing else changed. -/
structure Computed (i : Instr) (results : State → Nat → Cpx) (f : Nat → Cpx) (s t : State) : Prop where
  status : CompletedOk s t
  config : ConfigKept s t
  matchCount : t.matchCount = s.matchCount
  values : ∀ n, n < s.lenN → results t n = f n
  frame : ∀ a, ¬Writes i s a → t.byteAt a = s.byteAt a

/-- The three ways in which the transform `i` of `s`, of exact results `f`, can end in `t`. -/
inductive TransformOutcome (i : Instr) (results : State → Nat → Cpx) (f : Nat → Cpx) (s t : State) : Prop where
  | illegalLen (illegal : s.lenLegal = false) (err : t.err = .len)
  | overflow (legal : s.lenLegal = true) (outside : ∃ n, n < s.lenN ∧ (f n).fits = false) (err : t.err = .vod)
  | computed (legal : s.lenLegal = true) (fits : ∀ n, n < s.lenN → (f n).fits = true)
      (computed : Computed i results f s t)

/-- What IFFT computes from the cells (R101). -/
def inverseOf (s : State) : Nat → Cpx := inverseCell s.lenN (spectrumOf s) (tableOf s)

/-- What FFT computes from the cells (R102). -/
def forwardOf (r : Bool) (s : State) : Nat → Cpx := forwardCell s.lenN (fftInput r s) (tableOf s)

section
variable {i : Instr} {results : State → Nat → Cpx} {f : Nat → Cpx} {s t : State}

/-- Every result fits, or some result does not. -/
theorem fits_of_not_exists {n : Nat} (h : ¬∃ i, i < n ∧ (f i).fits = false) : ∀ i, i < n → (f i).fits = true :=
  fun i hi => Bool.of_not_eq_false fun hf => h ⟨i, hi, hf⟩

theorem ifft_outcome (ht : exec .ifft s = .next t) : TransformOutcome .ifft samplesOf (inverseOf s) s t := by
  rcases execIfft_cases s with ⟨illegal, e⟩ | ⟨legal, hnone, e⟩ | ⟨legal, u, hu, e⟩ <;> cases e.symm.trans ht
  · exact .illegalLen illegal rfl
  · exact .overflow legal ((ifftBody_none_iff s).1 hnone) rfl
  · obtain ⟨hvalues, -, -, hframe, hregs⟩ := ifftBody_result legal hu
    refine .computed legal (fits_of_not_exists fun hout => ?_) ?_
    · cases hu.symm.trans ((ifftBody_none_iff s).2 hout)
    · obtain ⟨m, rfl⟩ : ∃ m, u = { s with mem := m } := ⟨_, hregs⟩
      exact ⟨⟨rfl, rfl, rfl, rfl⟩, configKept_refl s, rfl, hvalues, hframe⟩

theorem fft_outcome {r : Bool} (ht : exec (.fft r) s = .next t) :
    TransformOutcome (.fft r) spectrumOf (forwardOf r s) s t := by
  rcases execFft_cases r s with ⟨illegal, e⟩ | ⟨legal, hnone, e⟩ | ⟨legal, u, hu, e⟩ <;> cases e.symm.trans ht
  · exact .illegalLen illegal rfl
  · exact .overflow legal ((fftBody_none_iff r s).1 hnone) rfl
  · obtain ⟨hvalues, -, -, hframe, hregs⟩ := fftBody_result legal hu
    refine .computed legal (fits_of_not_exists fun hout => ?_) ?_
    · cases hu.symm.trans ((fftBody_none_iff r s).2 hout)
    · obtain ⟨m, rfl⟩ : ∃ m, u = { s with mem := m } := ⟨_, hregs⟩
      exact ⟨⟨rfl, rfl, rfl, rfl⟩, configKept_refl s, rfl, hvalues, hframe⟩

theorem TransformOutcome.computed_of_fits (h : TransformOutcome i results f s t) (legal : s.lenLegal = true)
    (fits : ∀ n, n < s.lenN → (f n).fits = true) : Computed i results f s t := by
  cases h with
  | illegalLen illegal => cases illegal.symm.trans legal
  | overflow _ outside =>
    obtain ⟨n, hn, hf⟩ := outside
    cases hf.symm.trans (fits n hn)
  | computed _ _ hcomputed => exact hcomputed

theorem TransformOutcome.computed_of_noError (h : TransformOutcome i results f s t) (herr : t.err = .noError) :
    Computed i results f s t := by
  cases h with
  | illegalLen _ err => cases err.symm.trans herr
  | overflow _ _ err => cases err.symm.trans herr
  | computed _ _ hcomputed => exact hcomputed

theorem Computed.err (h : Computed i results f s t) : t.err = s.err := by
  obtain ⟨-, -, -, herr⟩ := h.status
  exact herr

end

/-- Settles O24: of the ways in which IFFT can end, a legal `LEN` and results that fit leave one. -/
theorem ifftComputesTheInverse : Obligations.IfftComputesTheInverse := by
  intro s legal fits
  obtain ⟨t, ht, -⟩ := exec_completes .ifft s
  obtain ⟨status, config, hmatch, values, frame⟩ := (ifft_outcome ht).computed_of_fits legal fits
  exact ⟨t, ht, status, config, hmatch, values, frame⟩

/-- Settles O25: of the ways in which FFT can end, a legal `LEN` and results that fit leave one. -/
theorem fftComputesTheForward : Obligations.FftComputesTheForward := by
  intro s r legal fits
  obtain ⟨t, ht, -⟩ := exec_completes (.fft r) s
  obtain ⟨status, config, hmatch, values, frame⟩ := (fft_outcome ht).computed_of_fits legal fits
  exact ⟨t, ht, status, config, hmatch, values, frame⟩

/-! ## Only the entries below `N` are read -/

/-- The inverse transform of length `n` reads the spectrum and the table below `n` only (R101). -/
theorem inverseCell_congr {n : Nat} {x x' t t' : Nat → Cpx} (hx : ∀ i, i < n → x i = x' i)
    (ht : ∀ m, m < n → t m = t' m) {m : Nat} (hm : m < n) : inverseCell n x t m = inverseCell n x' t' m := by
  have hindex : ∀ j, j < n → t ((n - j * m % n) % n) = t' ((n - j * m % n) % n) :=
    fun _ _ => ht _ (Nat.mod_lt _ (Nat.zero_lt_of_lt hm))
  rw [inverseCell, inverseCell, sumRe_congr hx hindex, sumIm_congr hx hindex]

/-- Transforms with the same exact results end with the same `ERR` and, without error, the same results. -/
theorem TransformOutcome.congr {i : Instr} {results : State → Nat → Cpx} {f f' : Nat → Cpx} {s s' t t' : State}
    (h : TransformOutcome i results f s t) (h' : TransformOutcome i results f' s' t') (hlen : s'.len = s.len)
    (herr : s'.err = s.err) (hf : ∀ n, n < s.lenN → f' n = f n) :
    t'.err = t.err ∧
      (s.lenLegal = true → t.err = .noError → ∀ n, n < s.lenN → results t' n = results t n) := by
  have hlegal := lenLegal_congr hlen
  have hN := lenN_congr hlen
  cases h with
  | illegalLen illegal err =>
    cases h' with
    | illegalLen _ err' => exact ⟨err'.trans err.symm, fun legal => by cases illegal.symm.trans legal⟩
    | overflow legal' => cases illegal.symm.trans (hlegal.symm.trans legal')
    | computed legal' => cases illegal.symm.trans (hlegal.symm.trans legal')
  | overflow legal outside err =>
    obtain ⟨n, hn, hout⟩ := outside
    cases h' with
    | illegalLen illegal' => cases illegal'.symm.trans (hlegal.trans legal)
    | overflow _ _ err' => exact ⟨err'.trans err.symm, fun _ hnone => by cases err.symm.trans hnone⟩
    | computed _ fits' => cases hout.symm.trans (hf n hn ▸ fits' n (hN ▸ hn))
  | computed legal fits hcomputed =>
    have hcomputed' := h'.computed_of_fits (hlegal.trans legal) fun n hn => by
      rw [hN] at hn
      rw [hf n hn, fits n hn]
    refine ⟨hcomputed'.err.trans (herr.trans hcomputed.err.symm), fun _ _ n hn => ?_⟩
    rw [hcomputed'.values n (hN ▸ hn), hf n hn, hcomputed.values n hn]

/-- Settles O42: the exact results of both transforms are the same on both machines. -/
theorem transformsReadOnlyBelowN : Obligations.TransformsReadOnlyBelowN := by
  intro s s' t t' hlen herr herr' htable
  refine ⟨fun hspectrum ht ht' => ?_, fun hsamples ht ht' => ?_⟩
  · refine (ifft_outcome ht).congr (ifft_outcome ht') hlen (herr'.trans herr.symm) fun n hn => ?_
    rw [inverseOf, lenN_congr hlen, inverseCell_congr hspectrum htable hn, inverseOf]
  · refine (fft_outcome ht).congr (fft_outcome ht') hlen (herr'.trans herr.symm) fun n hn => ?_
    rw [forwardOf, lenN_congr hlen]
    exact forwardCell_congr hsamples htable hn

/-! ## Bounded data -/

/-- The sum of the magnitudes of the components. -/
def Cpx.absSum (x : Cpx) : Int := |x.re| + |x.im|

theorem within_of_absSum_le {B : Int} {x : Cpx} (h : x.absSum ≤ B) : x.Within B :=
  ⟨(le_add_of_nonneg_right (abs_nonneg _)).trans h, (le_add_of_nonneg_left (abs_nonneg _)).trans h⟩

/-- Each component of a product is at most the one factor's `absSum` times the other's largest component. -/
theorem cmul_within_absSum {B : Int} {x t : Cpx} (ht : t.Within B) : (cmul x t).Within (x.absSum * B) := by
  obtain ⟨htr, hti⟩ := ht
  have product {a b : Int} (hb : |b| ≤ B) : |a * b| ≤ |a| * B := by
    rw [abs_mul]
    exact mul_le_mul_of_nonneg_left hb (abs_nonneg a)
  simp only [Cpx.Within, Cpx.absSum, add_mul]
  exact ⟨(abs_sub _ _).trans (add_le_add (product htr) (product hti)),
    (abs_add_le _ _).trans (add_le_add (product hti) (product htr))⟩

/-- Each component of a transform's sum is at most the inputs' `absSum` times the table's largest component. -/
theorem sum_within_absSum {B : Int} {n : Nat} {x t : Nat → Cpx} {index : Nat → Nat}
    (ht : ∀ i, i < n → (t (index i)).Within B) :
    |sumRe n x t index| ≤ (∑ i ∈ Finset.range n, (x i).absSum) * B ∧
    |sumIm n x t index| ≤ (∑ i ∈ Finset.range n, (x i).absSum) * B := by
  rw [Finset.sum_mul]
  have term (i : Nat) (hi : i ∈ Finset.range n) := cmul_within_absSum (x := x i) (ht i (Finset.mem_range.1 hi))
  constructor
  · refine (Finset.abs_sum_le_sum_abs _ _).trans (Finset.sum_le_sum fun i hi => ?_)
    obtain ⟨hre, -⟩ := term i hi
    exact hre
  · refine (Finset.abs_sum_le_sum_abs _ _).trans (Finset.sum_le_sum fun i hi => ?_)
    obtain ⟨-, him⟩ := term i hi
    exact him

theorem rdiv_mono {d : Int} (hd : 0 < d) {a b : Int} (h : a ≤ b) : rdiv a d ≤ rdiv b d :=
  Int.ediv_le_ediv (by omega) (by omega)

/-- `-B` and `B` are the rounded quotients of `-B * d` and `B * d`. -/
theorem abs_rdiv_le_of_le_mul {d a B : Int} (hd : 0 < d) (ha : |a| ≤ B * d) : |rdiv a d| ≤ B := by
  obtain ⟨hlo, hhi⟩ := abs_le.1 ha
  have hle := rdiv_mono hd hhi
  have hge := rdiv_mono hd ((neg_mul B d).le.trans hlo)
  rw [rdiv_mul_cancel hd] at hle hge
  exact abs_le.2 ⟨hge, hle⟩

theorem in32_of_abs_le {v : Int} (h : |v| ≤ 2 ^ 31 - 1) : in32 v = true := by
  obtain ⟨hlo, hhi⟩ := abs_le.1 h
  exact in32_iff.2 ⟨by omega, hhi⟩

theorem inverseDivisor_pos {n : Nat} (hn : 0 < n) : (0 : Int) < n * 2 ^ 30 :=
  mul_pos (Int.natCast_pos.2 hn) (by norm_num)

/-- A rounded quotient fits a cell when the dividend is at most `1.5 * 2^30` times the divisor. -/
theorem rdiv_pair_fits {a b d : Int} (hd : 0 < d) (ha : |a| ≤ 3 * 2 ^ 29 * d) (hb : |b| ≤ 3 * 2 ^ 29 * d) :
    (⟨rdiv a d, rdiv b d⟩ : Cpx).fits = true :=
  cpx_fits_iff.2 ⟨in32_of_abs_le ((abs_rdiv_le_of_le_mul hd ha).trans (by norm_num)),
    in32_of_abs_le ((abs_rdiv_le_of_le_mul hd hb).trans (by norm_num))⟩

/-- With bounded tables and bins every result of the inverse transform fits a cell (R101, corner cases). -/
theorem inverseOf_fits {s : State}
    (htable : ∀ m, m < s.lenN → 2 * (|s.cell .twr m| + |s.cell .twi m|) ≤ 3 * 2 ^ 30)
    (hbins : ∀ j, j < s.lenN → |s.cell .sr j| + |s.cell .si j| ≤ 2 ^ 30) (n : Nat) : (inverseOf s n).fits = true := by
  have hN := lenN_pos s
  have hsum : ∑ j ∈ Finset.range s.lenN, (spectrumOf s j).absSum ≤ s.lenN * 2 ^ 30 := by
    simpa using Finset.sum_le_card_nsmul (Finset.range s.lenN) (fun j => (spectrumOf s j).absSum) (2 ^ 30)
      fun j hj => hbins j (Finset.mem_range.1 hj)
  have hentry (m : Nat) (hm : m < s.lenN) : (tableOf s m).absSum ≤ 3 * 2 ^ 29 := by
    have hm := htable m hm
    simp only [Cpx.absSum, tableOf]
    linarith
  have hwithin (j : Nat) (_ : j < s.lenN) : (tableOf s ((s.lenN - j * n % s.lenN) % s.lenN)).Within (3 * 2 ^ 29) :=
    within_of_absSum_le (hentry _ (Nat.mod_lt _ hN))
  obtain ⟨hre, him⟩ := sum_within_absSum (x := spectrumOf s) hwithin
  have hbound : (∑ j ∈ Finset.range s.lenN, (spectrumOf s j).absSum) * (3 * 2 ^ 29) ≤ 3 * 2 ^ 29 * (s.lenN * 2 ^ 30) := by
    linarith
  exact rdiv_pair_fits (inverseDivisor_pos hN) (hre.trans hbound) (him.trans hbound)

/-- Settles O40: no result overflows. -/
theorem ifftCannotOverflowOnBoundedData : Obligations.IfftCannotOverflowOnBoundedData := by
  intro s t legal herr htable hbins ht
  exact ((ifft_outcome ht).computed_of_fits legal fun n _ => inverseOf_fits htable hbins n).err.trans herr

/-- Settles O41: each sum is at most `2^60`, so that each result is at most `2^30`. -/
theorem fftCannotOverflowOnBoundedData : Obligations.FftCannotOverflowOnBoundedData := by
  intro s t r M legal herr htable hsum ht
  refine ((fft_outcome ht).computed_of_fits legal fun j _ => ?_).err.trans herr
  have hwithin (i : Nat) (_ : i < s.lenN) : (tableOf s (j * i % s.lenN)).Within M :=
    htable _ (Nat.mod_lt _ (lenN_pos s))
  obtain ⟨hre, him⟩ := sum_within_absSum (x := fftInput r s) hwithin
  have hbound : (2 : Int) ^ 60 ≤ 3 * 2 ^ 29 * 2 ^ 30 := by norm_num
  exact rdiv_pair_fits (by norm_num) (hre.trans (hsum.trans hbound)) (him.trans (hsum.trans hbound))

end Sys2Proof.Machine

/-! # The standard tables of spec/43_transform.md

The listed tables for 6, 8 and 12 points (R103). -/

namespace Sys2Proof.Machine

open Sys2Proof.Safety

/-! ## Table entries and angles -/

/-- Both components are integers nearest to `2^30` times the cosine and minus the sine of the angle (R103). -/
def Cpx.NearestTo (z : Cpx) (θ : ℝ) : Prop :=
  |(z.re : ℝ) - 2 ^ 30 * Real.cos θ| ≤ 1 / 2 ∧ |(z.im : ℝ) + 2 ^ 30 * Real.sin θ| ≤ 1 / 2

theorem isStandardTable_iff (table : List Cpx) :
    IsStandardTable table ↔
      ∀ m, m < table.length → (cpxAt table m).NearestTo (2 * Real.pi * m / table.length) := by
  refine forall_congr' fun m => forall_congr' fun hm => ?_
  rw [cpxAt, List.getD_eq_getElem table _ hm, Cpx.NearestTo]

/-- A quarter turn takes the cosine to minus the sine, and the sine to the cosine. -/
theorem Cpx.NearestTo.quarterTurn {z : Cpx} {θ : ℝ} (h : z.NearestTo θ) :
    (⟨z.im, -z.re⟩ : Cpx).NearestTo (θ + Real.pi / 2) := by
  obtain ⟨hre, him⟩ := h
  rw [Cpx.NearestTo, Real.cos_add_pi_div_two, Real.sin_add_pi_div_two]
  refine ⟨by rwa [mul_neg, sub_neg_eq_add], ?_⟩
  rw [abs_sub_comm] at hre
  simpa only [Int.cast_neg, neg_add_eq_sub] using hre

/-- A table of `4 * q` entries is standard when its first quarter is, and the rest goes on by quarter turns. -/
theorem isStandardTable_of_quarter {table : List Cpx} {q : Nat} (hlen : table.length = 4 * q)
    (hquarter : ∀ m, m < q → (cpxAt table m).NearestTo (2 * Real.pi * m / table.length))
    (hturn : ∀ m, m < 3 * q → cpxAt table (m + q) = ⟨(cpxAt table m).im, -(cpxAt table m).re⟩) :
    IsStandardTable table := by
  rw [isStandardTable_iff]
  intro m
  induction m using Nat.strong_induction_on with
  | _ m ih =>
    intro hm
    by_cases hq : m < q
    · exact hquarter m hq
    · obtain ⟨p, rfl⟩ : ∃ p, m = p + q := ⟨m - q, by omega⟩
      have hpos : (0 : ℝ) < q := Nat.cast_pos.2 (by omega)
      have hangle : 2 * Real.pi * (p + q : Nat) / table.length =
          2 * Real.pi * p / table.length + Real.pi / 2 := by
        rw [hlen]
        push_cast
        field_simp
        ring
      rw [hturn p (by omega), hangle]
      exact (ih p (by omega) (by omega)).quarterTurn

/-- Every second entry of a standard table of `2 * n` entries makes the standard table of `n` entries. -/
theorem isStandardTable_of_double {table double : List Cpx} (hdouble : IsStandardTable double)
    (hlen : double.length = 2 * table.length) (hentry : ∀ m, m < table.length → cpxAt table m = cpxAt double (2 * m)) :
    IsStandardTable table := by
  rw [isStandardTable_iff] at hdouble ⊢
  intro m hm
  have hangle : 2 * Real.pi * (2 * m : Nat) / double.length = 2 * Real.pi * m / table.length := by
    rw [hlen]
    push_cast
    rw [mul_left_comm, mul_div_mul_left _ _ two_ne_zero]
  rw [hentry m hm, ← hangle]
  exact hdouble (2 * m) (by omega)

/-! ## The entries of the first quarter turn -/

theorem nearestTo_zero : (⟨1073741824, 0⟩ : Cpx).NearestTo 0 := by
  constructor <;> norm_num

/-- `2^29 * sqrt 2` lies within `1/2` of 759250125. -/
theorem nearestTo_pi_div_four : (⟨759250125, -759250125⟩ : Cpx).NearestTo (Real.pi / 4) := by
  have hlo : (759250124.5 / 2 ^ 29 : ℝ) ≤ Real.sqrt 2 := Real.le_sqrt_of_sq_le (by norm_num)
  have hhi : Real.sqrt 2 ≤ 759250125.5 / 2 ^ 29 := Real.sqrt_le_iff.2 (by norm_num)
  rw [Cpx.NearestTo, Real.cos_pi_div_four, Real.sin_pi_div_four, abs_le, abs_le]
  push_cast
  refine ⟨⟨?_, ?_⟩, ?_, ?_⟩ <;> linarith

/-- `2^29 * sqrt 3` lies within `1/2` of 929887697. -/
theorem sqrt_three_bounds : (929887696.5 / 2 ^ 29 : ℝ) ≤ Real.sqrt 3 ∧ Real.sqrt 3 ≤ 929887697.5 / 2 ^ 29 :=
  ⟨Real.le_sqrt_of_sq_le (by norm_num), Real.sqrt_le_iff.2 (by norm_num)⟩

theorem nearestTo_pi_div_six : (⟨929887697, -536870912⟩ : Cpx).NearestTo (Real.pi / 6) := by
  obtain ⟨hlo, hhi⟩ := sqrt_three_bounds
  rw [Cpx.NearestTo, Real.cos_pi_div_six, Real.sin_pi_div_six, abs_le, abs_le]
  push_cast
  refine ⟨⟨?_, ?_⟩, ?_, ?_⟩ <;> linarith

theorem nearestTo_pi_div_three : (⟨536870912, -929887697⟩ : Cpx).NearestTo (Real.pi / 3) := by
  obtain ⟨hlo, hhi⟩ := sqrt_three_bounds
  rw [Cpx.NearestTo, Real.cos_pi_div_three, Real.sin_pi_div_three, abs_le, abs_le]
  push_cast
  refine ⟨⟨?_, ?_⟩, ?_, ?_⟩ <;> linarith

/-! ## The listed tables -/

theorem standardTable12_isStandard : IsStandardTable standardTable12 := by
  refine isStandardTable_of_quarter (q := 3) rfl (fun m hm => ?_) (by decide)
  have hlen : standardTable12.length = 12 := rfl
  have hzero : 2 * Real.pi * (0 : Nat) / (12 : Nat) = 0 := by simp
  have hsixth : 2 * Real.pi * (1 : Nat) / (12 : Nat) = Real.pi / 6 := by ring
  have hthird : 2 * Real.pi * (2 : Nat) / (12 : Nat) = Real.pi / 3 := by ring
  rw [hlen]
  interval_cases m
  · exact hzero ▸ nearestTo_zero
  · exact hsixth ▸ nearestTo_pi_div_six
  · exact hthird ▸ nearestTo_pi_div_three

theorem standardTable8_isStandard : IsStandardTable standardTable8 := by
  refine isStandardTable_of_quarter (q := 2) rfl (fun m hm => ?_) (by decide)
  have hlen : standardTable8.length = 8 := rfl
  have hzero : 2 * Real.pi * (0 : Nat) / (8 : Nat) = 0 := by simp
  have hfourth : 2 * Real.pi * (1 : Nat) / (8 : Nat) = Real.pi / 4 := by ring
  rw [hlen]
  interval_cases m
  · exact hzero ▸ nearestTo_zero
  · exact hfourth ▸ nearestTo_pi_div_four

/-- Settles O60: the tables for 8 and 12 points go on by quarter turns, and the one for 6 is every second entry of 12. -/
theorem listedTablesAreStandard : Obligations.ListedTablesAreStandard :=
  ⟨isStandardTable_of_double standardTable12_isStandard rfl (by decide), standardTable8_isStandard,
    standardTable12_isStandard⟩

end Sys2Proof.Machine

/-! # Symmetry and accuracy in spec/43_transform.md

Real samples from a Hermitian spectrum (R104), and IFFT followed by FFT with the standard table (R105). -/

namespace Sys2Proof.Machine

open Sys2Proof.Safety

/-! ## The opposite index -/

/-- The index opposite to `i` modulo `n`: IFFT walks the table backwards by it (R101). -/
def mirror (n i : Nat) : Nat := (n - i) % n

theorem mirror_lt {n : Nat} (hn : 0 < n) (i : Nat) : mirror n i < n := Nat.mod_lt _ hn

theorem mirror_zero (n : Nat) : mirror n 0 = 0 := Nat.mod_self n

theorem mirror_pos {n i : Nat} (h0 : 0 < i) (hi : i < n) : mirror n i = n - i := Nat.mod_eq_of_lt (by omega)

theorem mirror_mirror {n i : Nat} (hi : i < n) : mirror n (mirror n i) = i := by
  rcases Nat.eq_zero_or_pos i with rfl | h0
  · rw [mirror_zero, mirror_zero]
  · rw [mirror_pos h0 hi, mirror_pos (by omega) (by omega)]
    omega

theorem natCast_mirror {n i : Nat} (hi : i ≤ n) : (mirror n i : ZMod n) = -i := by
  rw [mirror, ZMod.natCast_mod, Nat.cast_sub hi, ZMod.natCast_self, zero_sub]

theorem mirror_mul_mod {n j : Nat} (hj : j < n) (m : Nat) : mirror n j * m % n = mirror n (j * m % n) := by
  have hn : 0 < n := by omega
  have hcast : ((mirror n j * m : Nat) : ZMod n) = (mirror n (j * m % n) : Nat) := by
    rw [natCast_mirror (Nat.mod_lt _ hn).le, ZMod.natCast_mod, Nat.cast_mul, natCast_mirror hj.le, Nat.cast_mul, neg_mul]
  rw [(ZMod.natCast_eq_natCast_iff' _ _ n).1 hcast, Nat.mod_eq_of_lt (mirror_lt hn _)]

/-! ## Conjugate symmetry -/

/-- The complex number that a pair of cells stands for. -/
def Cpx.toComplex (z : Cpx) : ℂ := ⟨z.re, z.im⟩

/-- The values at opposite indices below `n` are conjugate to each other. -/
def ConjSymmetric (n : Nat) (x : Nat → ℂ) : Prop := ∀ j, j < n → x (mirror n j) = starRingEnd ℂ (x j)

theorem toComplex_eq_conj {z w : Cpx} (hre : z.re = w.re) (him : z.im = -w.im) :
    z.toComplex = starRingEnd ℂ w.toComplex := by
  apply Complex.ext <;> simp [Cpx.toComplex, hre, him]

/-- A value whose imaginary part is 0 is its own conjugate. -/
theorem toComplex_eq_conj_self {z : Cpx} (him : z.im = 0) : z.toComplex = starRingEnd ℂ z.toComplex :=
  toComplex_eq_conj rfl (by omega)

/-- Bins 0 and `N/2` are real, and of every other bin and its opposite one lies below `N/2` (R96). -/
theorem spectrumOf_conjSymmetric {s : State} (legal : s.lenLegal = true) (h : Hermitian s) :
    ConjSymmetric s.lenN fun j => (spectrumOf s j).toComplex := by
  obtain ⟨hzero, hhalf, hpairs⟩ := h
  obtain ⟨-, hN, -⟩ := lengths_of_legal legal
  intro j hj
  rcases Nat.eq_zero_or_pos j with rfl | h0
  · rw [mirror_zero]
    exact toComplex_eq_conj_self hzero
  · rw [mirror_pos h0 hj]
    rcases lt_trichotomy j (s.lenN / 2) with hlt | heq | hgt
    · obtain ⟨hre, him⟩ := hpairs j h0 (by omega)
      exact toComplex_eq_conj hre him
    · have hself : s.lenN - j = j := by omega
      rw [hself]
      exact toComplex_eq_conj_self (heq ▸ hhalf)
    · obtain ⟨hre, him⟩ := hpairs (s.lenN - j) (by omega) (by omega)
      rw [Nat.sub_sub_self hj.le] at hre him
      exact toComplex_eq_conj hre.symm (neg_eq_iff_eq_neg.1 him.symm)

theorem tableOf_conjSymmetric {s : State} (h : SymmetricTable s) :
    ConjSymmetric s.lenN fun m => (tableOf s m).toComplex := by
  obtain ⟨hzero, hpairs⟩ := h
  intro m hm
  rcases Nat.eq_zero_or_pos m with rfl | h0
  · rw [mirror_zero]
    exact toComplex_eq_conj_self hzero
  · rw [mirror_pos h0 hm]
    obtain ⟨hre, him⟩ := hpairs m h0 (by omega)
    exact toComplex_eq_conj hre him

/-- The terms of bins `j` and `N - j` are conjugate, so an inverse sum over symmetric values is real (R104). -/
theorem inverseSum_im {n : Nat} {x t : Nat → ℂ} (hx : ConjSymmetric n x) (ht : ConjSymmetric n t) (m : Nat) :
    (∑ j ∈ Finset.range n, x j * t (mirror n (j * m % n))).im = 0 := by
  rw [← Complex.conj_eq_iff_im, map_sum]
  have hlt {j : Nat} (hj : j ∈ Finset.range n) : j < n := Finset.mem_range.1 hj
  have hmem (j : Nat) (hj : j ∈ Finset.range n) : mirror n j ∈ Finset.range n :=
    Finset.mem_range.2 (mirror_lt (Nat.zero_lt_of_lt (hlt hj)) j)
  refine Finset.sum_nbij' (mirror n) (mirror n) hmem hmem (fun j hj => mirror_mirror (hlt hj))
    (fun j hj => mirror_mirror (hlt hj)) fun j hj => ?_
  have hn : 0 < n := Nat.zero_lt_of_lt (hlt hj)
  rw [map_mul, ← hx j (hlt hj), ← ht _ (mirror_lt hn _), mirror_mul_mod (hlt hj)]

/-- The sums of a transform as one complex sum. -/
theorem toComplex_sums (n : Nat) (x t : Nat → Cpx) (index : Nat → Nat) :
    (⟨sumRe n x t index, sumIm n x t index⟩ : Cpx).toComplex =
      ∑ i ∈ Finset.range n, (x i).toComplex * (t (index i)).toComplex := by
  apply Complex.ext <;> simp [Cpx.toComplex, sumRe, sumIm]

theorem sumIm_inverse_eq_zero {n : Nat} {x t : Nat → Cpx} (hx : ConjSymmetric n fun j => (x j).toComplex)
    (ht : ConjSymmetric n fun m => (t m).toComplex) (m : Nat) :
    sumIm n x t (fun j => mirror n (j * m % n)) = 0 := by
  have him := inverseSum_im hx ht m
  rw [← toComplex_sums] at him
  exact Int.cast_eq_zero.1 him

/-- Settles O34: the sum of the imaginary parts is 0 before it is rounded. -/
theorem hermitianSpectrumGivesRealSamples : Obligations.HermitianSpectrumGivesRealSamples := by
  intro s t legal hsymmetric hhermitian _ ht herr n hn
  have hsum := sumIm_inverse_eq_zero (spectrumOf_conjSymmetric legal hhermitian) (tableOf_conjSymmetric hsymmetric) n
  calc t.cell .ai n = (inverseOf s n).im := congrArg Cpx.im (((ifft_outcome ht).computed_of_noError herr).values n hn)
    _ = rdiv 0 (s.lenN * 2 ^ 30) := congrArg (rdiv · _) hsum
    _ = 0 := by simpa using rdiv_mul_cancel (inverseDivisor_pos (lenN_pos s)) 0

/-! ## Bounds on both components -/

/-- Both components have magnitude at most `B`. -/
def ComponentsLe (B : ℝ) (z : ℂ) : Prop := |z.re| ≤ B ∧ |z.im| ≤ B

/-- The sum of the magnitudes of the components. -/
def componentSum (z : ℂ) : ℝ := |z.re| + |z.im|

section
variable {A B : ℝ} {z w : ℂ}

theorem ComponentsLe.mono (h : ComponentsLe A z) (hAB : A ≤ B) : ComponentsLe B z := by
  obtain ⟨hre, him⟩ := h
  exact ⟨hre.trans hAB, him.trans hAB⟩

theorem ComponentsLe.add (hz : ComponentsLe A z) (hw : ComponentsLe B w) : ComponentsLe (A + B) (z + w) := by
  obtain ⟨hzr, hzi⟩ := hz
  obtain ⟨hwr, hwi⟩ := hw
  exact ⟨(abs_add_le _ _).trans (add_le_add hzr hwr), (abs_add_le _ _).trans (add_le_add hzi hwi)⟩

theorem ComponentsLe.mul (hw : ComponentsLe B w) : ComponentsLe (componentSum z * B) (z * w) := by
  obtain ⟨hre, him⟩ := hw
  have product {a b : ℝ} (hb : |b| ≤ B) : |a * b| ≤ |a| * B := by
    rw [abs_mul]
    exact mul_le_mul_of_nonneg_left hb (abs_nonneg a)
  simp only [ComponentsLe, componentSum, add_mul, Complex.mul_re, Complex.mul_im]
  exact ⟨(abs_sub _ _).trans (add_le_add (product hre) (product him)),
    (abs_add_le _ _).trans (add_le_add (product him) (product hre))⟩

theorem ComponentsLe.smul {c : ℝ} (hc : 0 ≤ c) (hz : ComponentsLe B z) : ComponentsLe (c * B) (c * z) := by
  obtain ⟨hre, him⟩ := hz
  simp only [ComponentsLe, Complex.re_ofReal_mul, Complex.im_ofReal_mul, abs_mul, abs_of_nonneg hc]
  exact ⟨mul_le_mul_of_nonneg_left hre hc, mul_le_mul_of_nonneg_left him hc⟩

theorem ComponentsLe.of_componentSum_le (h : componentSum z ≤ B) : ComponentsLe B z :=
  ⟨(le_add_of_nonneg_right (abs_nonneg _)).trans h, (le_add_of_nonneg_left (abs_nonneg _)).trans h⟩

end

theorem ComponentsLe.sum {n : Nat} {b : Nat → ℝ} {f : Nat → ℂ} (h : ∀ i, i < n → ComponentsLe (b i) (f i)) :
    ComponentsLe (∑ i ∈ Finset.range n, b i) (∑ i ∈ Finset.range n, f i) := by
  rw [ComponentsLe, Complex.re_sum, Complex.im_sum]
  constructor <;> refine (Finset.abs_sum_le_sum_abs _ _).trans (Finset.sum_le_sum fun i hi => ?_)
  · obtain ⟨hre, -⟩ := h i (Finset.mem_range.1 hi)
    exact hre
  · obtain ⟨-, him⟩ := h i (Finset.mem_range.1 hi)
    exact him

/-- A sum of products with one bounded factor. -/
theorem ComponentsLe.sum_mul {n : Nat} {A B : ℝ} (hB : 0 ≤ B) {x t : Nat → ℂ}
    (hx : ∀ i, i < n → componentSum (x i) ≤ A) (ht : ∀ i, i < n → ComponentsLe B (t i)) :
    ComponentsLe (n * (A * B)) (∑ i ∈ Finset.range n, x i * t i) := by
  have hsum := ComponentsLe.sum fun i hi => ((ht i hi).mul (z := x i)).mono (mul_le_mul_of_nonneg_right (hx i hi) hB)
  simpa using hsum

/-! ## The exact transforms -/

/-- The exact table entry, `exp(-2*pi*i*m / N)` (R103). -/
noncomputable def twiddle (n m : Nat) : ℂ := ⟨Real.cos (2 * Real.pi * m / n), -Real.sin (2 * Real.pi * m / n)⟩

theorem twiddle_componentsLe (n m : Nat) : ComponentsLe 1 (twiddle n m) :=
  ⟨Real.abs_cos_le_one _, (abs_neg _).trans_le (Real.abs_sin_le_one _)⟩

/-- The exact table is the standard additive character modulo `n`, which has period `n`. -/
theorem twiddle_eq_stdAddChar (n m : Nat) [NeZero n] : twiddle n m = ZMod.stdAddChar (-(m : ZMod n)) := by
  have hchar := ZMod.stdAddChar_coe (N := n) (-(m : ℤ))
  have hangle : 2 * Real.pi * Complex.I * ((-(m : ℤ) : ℤ) : ℂ) / n =
      ((-(2 * Real.pi * m / n) : ℝ) : ℂ) * Complex.I := by
    push_cast
    ring
  rw [hangle] at hchar
  rw [← Int.cast_natCast m, ← Int.cast_neg, hchar]
  apply Complex.ext
  · rw [Complex.exp_ofReal_mul_I_re, Real.cos_neg]
    rfl
  · rw [Complex.exp_ofReal_mul_I_im, Real.sin_neg]
    rfl

theorem twiddle_mirror {n m : Nat} [NeZero n] (hm : m ≤ n) : twiddle n (mirror n m) = ZMod.stdAddChar (m : ZMod n) := by
  rw [twiddle_eq_stdAddChar, natCast_mirror hm, neg_neg]

theorem twiddle_conjSymmetric (n : Nat) [NeZero n] : ConjSymmetric n (twiddle n) := by
  intro m hm
  rw [twiddle_mirror hm.le, twiddle_eq_stdAddChar, AddChar.map_neg_eq_conj, Complex.conj_conj]

theorem sum_range_natCast {n : Nat} [NeZero n] (f : ZMod n → ℂ) :
    ∑ i ∈ Finset.range n, f (i : ZMod n) = ∑ a : ZMod n, f a :=
  Finset.sum_nbij' (fun i => (i : ZMod n)) ZMod.val (fun _ _ => Finset.mem_univ _)
    (fun a _ => Finset.mem_range.2 (ZMod.val_lt a)) (fun _ hi => ZMod.val_cast_of_lt (Finset.mem_range.1 hi))
    (fun a _ => ZMod.natCast_zmod_val a) fun _ _ => rfl

/-- The exact inverse transform over the exact table. -/
noncomputable def exactInverse (n : Nat) (x : Nat → ℂ) (m : Nat) : ℂ :=
  (((n : ℝ)⁻¹ : ℝ) : ℂ) * ∑ j ∈ Finset.range n, x j * twiddle n (mirror n (j * m % n))

/-- The exact inverse transform is that of Mathlib. -/
theorem exactInverse_eq_invDFT {n : Nat} [NeZero n] (x : Nat → ℂ) (m : Nat) :
    exactInverse n x m = ZMod.dft.symm (fun a : ZMod n => x a.val) (m : ZMod n) := by
  rw [ZMod.invDFT_apply, exactInverse, smul_eq_mul, ← sum_range_natCast, Complex.ofReal_inv, Complex.ofReal_natCast]
  congr 1
  refine Finset.sum_congr rfl fun j hj => ?_
  rw [ZMod.val_cast_of_lt (Finset.mem_range.1 hj), twiddle_mirror (Nat.mod_lt _ (NeZero.pos n)).le, ZMod.natCast_mod,
    Nat.cast_mul, smul_eq_mul, mul_comm]

/-- The exact forward transform undoes the exact inverse transform. -/
theorem forward_exactInverse {n : Nat} [NeZero n] (x : Nat → ℂ) {k : Nat} (hk : k < n) :
    ∑ m ∈ Finset.range n, exactInverse n x m * twiddle n (k * m % n) = x k := by
  have hforward := ZMod.dft_apply (ZMod.dft.symm fun a : ZMod n => x a.val) (k : ZMod n)
  rw [LinearEquiv.apply_symm_apply, ZMod.val_cast_of_lt hk, ← sum_range_natCast] at hforward
  rw [hforward]
  refine Finset.sum_congr rfl fun m _ => ?_
  rw [exactInverse_eq_invDFT, twiddle_eq_stdAddChar, ZMod.natCast_mod, Nat.cast_mul, smul_eq_mul, mul_comm (k : ZMod n),
    mul_comm]

theorem exactInverse_im {n : Nat} [NeZero n] {x : Nat → ℂ} (hx : ConjSymmetric n x) (m : Nat) :
    (exactInverse n x m).im = 0 := by
  rw [exactInverse, Complex.im_ofReal_mul, inverseSum_im hx (twiddle_conjSymmetric n), mul_zero]

theorem exactInverse_componentsLe {n : Nat} [NeZero n] {x : Nat → ℂ} {M : ℝ}
    (hx : ∀ j, j < n → componentSum (x j) ≤ M) (m : Nat) : ComponentsLe M (exactInverse n x m) := by
  have hsum := ComponentsLe.sum_mul zero_le_one hx fun j _ => twiddle_componentsLe n (mirror n (j * m % n))
  have hscaled := hsum.smul (inv_nonneg.2 (Nat.cast_nonneg n))
  have hn : (n : ℝ) ≠ 0 := Nat.cast_ne_zero.2 (NeZero.ne n)
  rwa [mul_one, inv_mul_cancel_left₀ hn] at hscaled

/-! ## What rounding adds -/

/-- Rounded division is within half a unit of the quotient. -/
theorem abs_rdiv_sub_div_le {d : Int} (hd : 0 < d) (a : Int) : |(rdiv a d : ℝ) - a / d| ≤ 1 / 2 := by
  obtain ⟨hlo, hhi⟩ := rdiv_bounds hd a
  have hd' : (0 : ℝ) < d := Int.cast_pos.2 hd
  have hlo' : 2 * (d : ℝ) * rdiv a d - d ≤ 2 * a := by exact_mod_cast hlo
  have hhi' : 2 * (a : ℝ) < 2 * d * rdiv a d + d := by exact_mod_cast hhi
  have hquotient : (rdiv a d : ℝ) - a / d = (d * rdiv a d - a) / d := by field_simp
  rw [hquotient, abs_div, abs_of_pos hd', div_le_iff₀ hd', abs_le]
  constructor <;> linarith

/-- An entry of the standard table is the exact entry, times `2^30`, rounded. -/
theorem Cpx.NearestTo.componentsLe {z : Cpx} {n m : Nat} (h : z.NearestTo (2 * Real.pi * m / n)) :
    ComponentsLe (1 / 2) (z.toComplex - ((2 ^ 30 : ℝ) : ℂ) * twiddle n m) := by
  obtain ⟨hre, him⟩ := h
  simp only [ComponentsLe, Complex.sub_re, Complex.sub_im, Complex.re_ofReal_mul, Complex.im_ofReal_mul, twiddle,
    mul_neg, sub_neg_eq_add]
  exact ⟨hre, him⟩

theorem roundedQuotients_near {d : Int} (hd : 0 < d) (z : Cpx) :
    ComponentsLe (1 / 2) ((⟨rdiv z.re d, rdiv z.im d⟩ : Cpx).toComplex - (((d : ℝ)⁻¹ : ℝ) : ℂ) * z.toComplex) := by
  simp only [ComponentsLe, Complex.sub_re, Complex.sub_im, Complex.re_ofReal_mul, Complex.im_ofReal_mul, ← div_eq_inv_mul]
  exact ⟨abs_rdiv_sub_div_le hd z.re, abs_rdiv_sub_div_le hd z.im⟩

/-- A transform over the standard table with the divisor `c * 2^30`, against the sum over the exact table: half a unit from
the rounding of the quotient, and `2^-31` of each input from its table entry. -/
theorem roundedSums_near {n : Nat} {x t : Nat → Cpx} {index : Nat → Nat} {A c : ℝ} {d : Int} (hd : 0 < d)
    (hc : (d : ℝ) = c * 2 ^ 30) (hx : ∀ i, i < n → componentSum (x i).toComplex ≤ A)
    (ht : ∀ i, i < n → (t (index i)).NearestTo (2 * Real.pi * index i / n)) :
    ComponentsLe (1 / 2 + c⁻¹ * (n * A) / 2 ^ 31)
      ((⟨rdiv (sumRe n x t index) d, rdiv (sumIm n x t index) d⟩ : Cpx).toComplex -
        ((c⁻¹ : ℝ) : ℂ) * ∑ i ∈ Finset.range n, (x i).toComplex * twiddle n (index i)) := by
  have hrounding := roundedQuotients_near hd ⟨sumRe n x t index, sumIm n x t index⟩
  have htable := (ComponentsLe.sum_mul one_half_pos.le hx fun i hi => (ht i hi).componentsLe).smul
    (inv_nonneg.2 (Int.cast_nonneg hd.le))
  have hscale : (((d : ℝ)⁻¹ : ℝ) : ℂ) * ((2 ^ 30 : ℝ) : ℂ) = ((c⁻¹ : ℝ) : ℂ) := by
    rw [← Complex.ofReal_mul, hc, mul_inv, inv_mul_cancel_right₀ (by norm_num)]
  have hexact : (((d : ℝ)⁻¹ : ℝ) : ℂ) *
        ∑ i ∈ Finset.range n, (x i).toComplex * ((t (index i)).toComplex - ((2 ^ 30 : ℝ) : ℂ) * twiddle n (index i)) =
      (((d : ℝ)⁻¹ : ℝ) : ℂ) * (⟨sumRe n x t index, sumIm n x t index⟩ : Cpx).toComplex -
        ((c⁻¹ : ℝ) : ℂ) * ∑ i ∈ Finset.range n, (x i).toComplex * twiddle n (index i) := by
    simp only [toComplex_sums, mul_sub, Finset.sum_sub_distrib, mul_left_comm _ ((2 ^ 30 : ℝ) : ℂ)]
    rw [← Finset.mul_sum, ← mul_assoc, hscale]
  have htotal := hrounding.add htable
  rw [hexact, sub_add_sub_cancel] at htotal
  refine htotal.mono (le_of_eq ?_)
  rw [hc, mul_inv]
  ring

/-! ## The accuracy of one transform after the other -/

/-- The real parts of a transform's results, which FFT with `R = 1` reads. -/
def realParts (f : Nat → Cpx) (m : Nat) : Cpx := ⟨(f m).re, 0⟩

section
variable {n : Nat} [NeZero n] {M : ℝ} {x t : Nat → Cpx}
  (ht : ∀ m, m < n → (t m).NearestTo (2 * Real.pi * m / n))
  (hx : ∀ j, j < n → componentSum (x j).toComplex ≤ M)
include ht hx

/-- The results of IFFT are within `1/2 + M * 2^-31` of the exact inverse transform (R105). -/
theorem inverseCell_near (m : Nat) :
    ComponentsLe (1 / 2 + M / 2 ^ 31)
      ((inverseCell n x t m).toComplex - exactInverse n (fun j => (x j).toComplex) m) := by
  have hn : (n : ℝ) ≠ 0 := Nat.cast_ne_zero.2 (NeZero.ne n)
  have hnear := roundedSums_near (index := fun j => mirror n (j * m % n)) (c := n)
    (inverseDivisor_pos (NeZero.pos n)) (by norm_num) hx fun j _ => ht _ (mirror_lt (NeZero.pos n) _)
  rwa [inv_mul_cancel_left₀ hn] at hnear

theorem inverseCell_componentsLe (hM : M ≤ 2 ^ 30) (m : Nat) :
    ComponentsLe (M + 1) (inverseCell n x t m).toComplex := by
  have hsum := (inverseCell_near ht hx m).add (exactInverse_componentsLe hx m)
  rw [sub_add_cancel] at hsum
  exact hsum.mono (by linarith)

/-- The real part of a result of IFFT against the exact real sample. -/
theorem realInverse_near (hsymmetric : ConjSymmetric n fun j => (x j).toComplex) (m : Nat) :
    componentSum ((realParts (inverseCell n x t) m).toComplex - exactInverse n (fun j => (x j).toComplex) m) ≤
      1 / 2 + M / 2 ^ 31 := by
  obtain ⟨hre, -⟩ := inverseCell_near ht hx m
  have him : ((realParts (inverseCell n x t) m).toComplex - exactInverse n (fun j => (x j).toComplex) m).im = 0 := by
    rw [Complex.sub_im, exactInverse_im hsymmetric]
    simp [realParts, Cpx.toComplex]
  rw [componentSum, him, abs_zero, add_zero]
  exact hre

/-- FFT of the real parts of IFFT's results: the rounding of FFT over samples of at most `M + 1`, and the errors of the
samples adding in phase (R105). -/
theorem forward_realInverse_near (hM : M ≤ 2 ^ 30) (hsymmetric : ConjSymmetric n fun j => (x j).toComplex) {k : Nat}
    (hk : k < n) :
    ComponentsLe (n / 2 + 1 / 2 + n * (2 * M + 1) / 2 ^ 31)
      ((forwardCell n (realParts (inverseCell n x t)) t k).toComplex - (x k).toComplex) := by
  have hsamples (m : Nat) (_ : m < n) : componentSum (realParts (inverseCell n x t) m).toComplex ≤ M + 1 := by
    obtain ⟨hre, -⟩ := inverseCell_componentsLe ht hx hM m
    simpa [componentSum, realParts, Cpx.toComplex] using hre
  have hrounding := roundedSums_near (index := fun m => k * m % n) (c := 1) (d := 2 ^ 30) (by norm_num)
    (by norm_num) hsamples
    fun m _ => ht _ (Nat.mod_lt _ (NeZero.pos n))
  rw [inv_one, Complex.ofReal_one, one_mul, one_mul] at hrounding
  have hinput := ComponentsLe.sum_mul zero_le_one (fun m _ => realInverse_near ht hx hsymmetric m)
    fun m (_ : m < n) => twiddle_componentsLe n (k * m % n)
  have hexact := forward_exactInverse (fun j => (x j).toComplex) hk
  simp only [sub_mul, Finset.sum_sub_distrib, hexact] at hinput
  have htotal := hrounding.add hinput
  rw [sub_add_sub_cancel] at htotal
  exact htotal.mono (le_of_eq (by ring))

end

/-! ## IFFT, then FFT with `R = 1` -/

theorem fits_of_componentsLe {z : Cpx} {B : ℝ} (h : ComponentsLe B z.toComplex) (hB : B ≤ 2 ^ 31 - 1) :
    z.fits = true := by
  obtain ⟨hre, him⟩ := h.mono hB
  have cell_fits {v : Int} (hv : |(v : ℝ)| ≤ 2 ^ 31 - 1) : in32 v = true := in32_of_abs_le (by exact_mod_cast hv)
  exact cpx_fits_iff.2 ⟨cell_fits hre, cell_fits him⟩

theorem tableOf_nearestTo {s : State} (h : HoldsStandardTable s) {m : Nat} (hm : m < s.lenN) :
    (tableOf s m).NearestTo (2 * Real.pi * m / s.lenN) := by
  have hlen : s.table.length = s.lenN := by simp [State.table, State.complexCells]
  have hnear := (isStandardTable_iff s.table).1 h m (hlen.symm ▸ hm)
  rwa [cpxAt_table s hm, hlen] at hnear

theorem errorBound_cast (n : Nat) (M : Int) :
    ((errorBound n M : ℚ) : ℝ) = n / 2 + 1 / 2 + n * (2 * M + 1) / 2 ^ 31 := by
  simp [errorBound]

/-- With at most 1026 points and bins of at most `2^30` the bound stays below 1540. -/
theorem errorBound_le {n : Nat} {M : Int} (hn : n ≤ 1026) (hM : M ≤ 2 ^ 30) : ((errorBound n M : ℚ) : ℝ) ≤ 1540 := by
  have hn' : (n : ℝ) ≤ 1026 := by exact_mod_cast hn
  have hM' : (M : ℝ) ≤ 2 ^ 30 := by exact_mod_cast hM
  have hproduct : (n : ℝ) * (2 * M + 1) ≤ 1026 * (2 * 2 ^ 30 + 1) :=
    (mul_le_mul_of_nonneg_left (by linarith) (Nat.cast_nonneg n)).trans (mul_le_mul_of_nonneg_right hn' (by norm_num))
  rw [errorBound_cast]
  linarith

/-- IFFT does not write the table (R101). -/
theorem tableOf_of_ifftFrame {s t : State} (legal : s.lenLegal = true)
    (hframe : ∀ a, ¬Writes .ifft s a → t.byteAt a = s.byteAt a) {m : Nat} (hm : m < s.lenN) :
    tableOf t m = tableOf s m := by
  obtain ⟨-, -, -, -, hN⟩ := lengths_of_legal legal
  have hre : t.cell .twr m = s.cell .twr m := cell_eq_of_byteAt_eq fun b hb =>
    hframe _ (by simp only [Writes, inCells, Region.base]; omega)
  have him : t.cell .twi m = s.cell .twi m := cell_eq_of_byteAt_eq fun b hb =>
    hframe _ (by simp only [Writes, inCells, Region.base]; omega)
  rw [tableOf, tableOf, hre, him]

/-- What FFT with `R = 1` computes after IFFT: the forward transform of IFFT's real results. -/
theorem forwardOf_after_ifft {s t : State} (legal : s.lenLegal = true) (h : Computed .ifft samplesOf (inverseOf s) s t)
    {j : Nat} (hj : j < s.lenN) :
    forwardOf true t j = forwardCell s.lenN (realParts (inverseOf s)) (tableOf s) j := by
  obtain ⟨-, hlen, -⟩ := h.config
  rw [forwardOf, lenN_congr hlen]
  exact forwardCell_congr (fun n hn => congrArg (fun z : Cpx => (⟨z.re, 0⟩ : Cpx)) (h.values n hn))
    (fun m hm => tableOf_of_ifftFrame legal h.frame hm) hj

/-- Settles O36: the results of both transforms fit because of the bound. -/
theorem inverseThenForwardWithinBound : Obligations.InverseThenForwardWithinBound := by
  intro s M legal herr hstandard hhermitian hbins hM
  obtain ⟨-, -, -, -, hN⟩ := lengths_of_legal legal
  have : NeZero s.lenN := ⟨(lenN_pos s).ne'⟩
  have htable (m : Nat) (hm : m < s.lenN) := tableOf_nearestTo hstandard hm
  have hspectrum (j : Nat) (hj : j < s.lenN) : componentSum (spectrumOf s j).toComplex ≤ M := by
    have hj := hbins j hj
    simp only [componentSum, Cpx.toComplex, spectrumOf]
    exact_mod_cast hj
  have hM' : (M : ℝ) ≤ 2 ^ 30 := by exact_mod_cast hM
  obtain ⟨t, ht, -⟩ := exec_completes .ifft s
  have hinverse := (ifft_outcome ht).computed_of_fits legal fun n _ =>
    fits_of_componentsLe (inverseCell_componentsLe htable hspectrum hM' n) (by linarith)
  have hnear {j : Nat} (hj : j < s.lenN) :
      ComponentsLe (errorBound s.lenN M : ℚ) ((forwardOf true t j).toComplex - (spectrumOf s j).toComplex) := by
    rw [forwardOf_after_ifft legal hinverse hj, errorBound_cast]
    exact forward_realInverse_near htable hspectrum hM' (spectrumOf_conjSymmetric legal hhermitian) hj
  have hlen := exec_len ht
  have hlenN := lenN_congr hlen
  obtain ⟨u, hu, -⟩ := exec_completes (.fft true) t
  have hforward := (fft_outcome hu).computed_of_fits ((lenLegal_congr hlen).trans legal) fun j hj => by
    have hj := hlenN ▸ hj
    have hbound := (hnear hj).add (.of_componentSum_le (hspectrum j hj))
    rw [sub_add_cancel] at hbound
    exact fits_of_componentsLe hbound (by linarith [errorBound_le hN hM])
  refine ⟨t, u, ht, hinverse.err.trans herr, hu, hforward.err.trans (hinverse.err.trans herr), fun j hj => ?_⟩
  have hj' := hnear hj
  rw [← hforward.values j (hlenN.symm ▸ hj)] at hj'
  obtain ⟨hre, him⟩ := hj'
  simp only [Cpx.toComplex, spectrumOf, Complex.sub_re, Complex.sub_im] at hre him
  exact ⟨by exact_mod_cast hre, by exact_mod_cast him⟩

end Sys2Proof.Machine

/-! # The unpacker and quantizer of spec/44_unpack.md

What the three narrowing modes store (R111), and the block that UNPACK stores (R112). -/

namespace Sys2Proof.Machine

open Sys2Proof.Safety

/-! ## The narrowing modes -/

/-- A pattern read unsigned: a value of `0 .. 255` is kept. -/
theorem byte_ofInt_toNat {v : Int} (h0 : 0 ≤ v) (h1 : v ≤ 255) : ((BitVec.ofInt 8 v).toNat : Int) = v := by
  rw [BitVec.toNat_ofInt]
  omega

/-- `SAT_S8` clamps to what a byte holds in two's complement. -/
theorem narrow_satS8_toInt (r : Int) : (narrow .satS8 r).toInt = min 127 (max (-128) r) :=
  BitVec.toInt_ofInt_eq_self (by decide) (by omega) (by omega)

/-- `WRAP_S8` stores the residue modulo 256. -/
theorem narrow_wrapS8_toNat (r : Int) : ((narrow .wrapS8 r).toNat : Int) = r % 256 :=
  byte_ofInt_toNat (by omega) (by omega)

/-- Read in two's complement, the residue is the one in `-128 .. 127`. -/
theorem narrow_wrapS8_toInt (r : Int) : (narrow .wrapS8 r).toInt = Int.bmod r 256 := by
  rw [BitVec.toInt_eq_toNat_bmod, narrow_wrapS8_toNat]
  exact Int.emod_bmod r 256

/-- `SAT_U8` clamps to what a byte holds unsigned. -/
theorem narrow_satU8_toNat (r : Int) : ((narrow .satU8 r).toNat : Int) = min 255 (max 0 r) :=
  byte_ofInt_toNat (by omega) (by omega)

/-- No mode changes a value of `0 .. 127`: it lies in every mode's range. -/
theorem narrow_eq_ofInt {r : Int} (h0 : 0 ≤ r) (h1 : r ≤ 127) (m : QMode) : narrow m r = BitVec.ofInt 8 r := by
  cases m with
  | satS8 => exact congrArg (BitVec.ofInt 8) (by omega : min 127 (max (-128) r) = r)
  | wrapS8 => exact congrArg (BitVec.ofInt 8) (by omega : r % 256 = r)
  | satU8 => exact congrArg (BitVec.ofInt 8) (by omega : min 255 (max 0 r) = r)

/-- Settles O46: `QMODE` selects the mode, and each mode's range fits a byte. -/
theorem narrowingStandsForItsTable : Obligations.NarrowingStandsForItsTable := by
  intro s r
  refine ⟨fun hq => ?_, fun hq => ?_, fun hq => ?_, (narrowing_none_iff s).2, fun h0 h1 m => ?_⟩
  · exact ⟨narrowing_of_selectsMode (.inl ⟨hq, rfl⟩), narrow_satS8_toInt r⟩
  · exact ⟨narrowing_of_selectsMode (.inr (.inl ⟨hq, rfl⟩)), narrow_wrapS8_toNat r, narrow_wrapS8_toInt r⟩
  · exact ⟨narrowing_of_selectsMode (.inr (.inr ⟨hq, rfl⟩)), narrow_satU8_toNat r⟩
  · rw [narrow_eq_ofInt h0 h1 m]
    exact byte_ofInt_toNat h0 (h1.trans (by decide))

/-! ## UNPACK -/

theorem finish_bb (s : State) (i : Nat) : s.finish.bb i = s.bb i := bb_congr rfl rfl i

section
variable {s : State} {m : QMode} (legal : s.lenLegal = true)
include legal

theorem exec_unpack_legal (hstep : s.stepSize ≠ 0#16) (hmode : s.narrowing = some m) :
    exec .unpack s = .next (unpackBody m s).finish :=
  (checkLen_legal legal _).trans ((checkStep_legal hstep _).trans (checkMode_legal hmode _))

/-- Bytes `j - 1` and `k + j - 1` of the block come from the two parts of bin `j`. -/
theorem unpackBody_interior {j : Nat} (h1 : 1 ≤ j) (hk : j ≤ s.lenK) :
    (unpackBody m s).bb (j - 1) = narrow m (rdiv (s.cell .sr j) s.stepSize.toNat) ∧
    (unpackBody m s).bb (s.lenK + j - 1) = narrow m (rdiv (s.cell .si j) s.stepSize.toNat) := by
  obtain ⟨hL, -⟩ := lengths_of_legal legal
  have hre : j - 1 + 1 = j := by omega
  have him : s.lenK + j - 1 - s.lenK + 1 = j := by omega
  constructor
  · rw [unpackBody_bb legal, if_pos (by omega), unpackedByte, if_pos (by omega), hre, spectrumOf]
  · rw [unpackBody_bb legal, if_pos (by omega), unpackedByte, if_neg (by omega), him, spectrumOf]

end

/-- Settles O26: the body writes the block, and `finish` touches no byte. -/
theorem unpackQuantizesTheInterior : Obligations.UnpackQuantizesTheInterior := by
  intro s m legal hstep hmode
  have hconfig := (completion_finish .unpack (unpackBody_soundStore legal m)).config
  refine ⟨_, exec_unpack_legal legal hstep (narrowing_of_selectsMode hmode), ⟨rfl, rfl, rfl, rfl⟩, hconfig, rfl, ?_⟩
  simp only [finish_bb, finish_byteAt]
  exact ⟨fun _ h1 hk => unpackBody_interior legal h1 hk, unpackBody_byteAt legal m⟩

end Sys2Proof.Machine

/-! # The composite commands of spec/45_composite.md

What ENCODE, VERIFY and DECODE compute (R120 to R122), the round trip (R123) and the zero block (R124). -/

namespace Sys2Proof.Machine

open Sys2Proof.Safety

/-! ## Rounded division -/

theorem rdiv_zero {d : Int} (hd : 0 < d) : rdiv 0 d = 0 := by simpa using rdiv_mul_cancel hd 0

/-- A common factor of the dividend and the divisor cancels. -/
theorem rdiv_mul_mul_right {c : Int} (hc : 0 < c) (a d : Int) : rdiv (a * c) (d * c) = rdiv a d := by
  have hnum : 2 * (a * c) + d * c = (2 * a + d) * c := by ring
  rw [rdiv, rdiv, hnum, ← mul_assoc, Int.mul_ediv_mul_of_pos_left _ _ hc]

/-- A value less than half a divisor from a multiple is divided to it. -/
theorem rdiv_eq_of_near {v b d : Int} (hd : 0 < d) (h : 2 * |v - b * d| < d) : rdiv v d = b := by
  have hle := le_abs_self (v - b * d)
  have hge := neg_abs_le (v - b * d)
  exact (rdiv_eq_iff hd v b).2 ⟨by linarith, by linarith⟩

/-! ## The block's spectrum -/

section
variable (s : State)

theorem deq_nonneg_le (b : Byte) : 0 ≤ s.deq b ∧ s.deq b ≤ 255 * s.stepSize.toNat := by
  have hb : (b.toNat : Int) ≤ 255 := by exact_mod_cast Nat.le_of_lt_succ b.isLt
  exact ⟨by rw [State.deq]; positivity, mul_le_mul_of_nonneg_right hb (Int.natCast_nonneg _)⟩

theorem blockSpectrum_zero : blockSpectrum s 0 = ⟨s.sent.toInt, 0⟩ := rfl

theorem blockSpectrum_interior {j : Nat} (h1 : 1 ≤ j) (hk : j ≤ s.lenK) :
    blockSpectrum s j = ⟨s.deq (s.bb (j - 1)), s.deq (s.bb (s.lenK + j - 1))⟩ := by
  rw [blockSpectrum, if_neg (by omega), if_pos hk]
  rfl

theorem blockSpectrum_terminal : blockSpectrum s (s.lenK + 1) = ⟨0, 0⟩ := by
  rw [blockSpectrum, if_neg (by omega), if_neg (by omega), if_pos rfl]

/-- Every bin but the sentinel is made of two dequantized bytes, or is 0. -/
theorem blockSpectrum_absSum_le {j : Nat} (h1 : 1 ≤ j) : (blockSpectrum s j).absSum ≤ 510 * s.stepSize.toNat := by
  have bytes_le (a b : Byte) : |s.deq a| + |s.deq b| ≤ 510 * s.stepSize.toNat := by
    obtain ⟨ha0, ha⟩ := deq_nonneg_le s a
    obtain ⟨hb0, hb⟩ := deq_nonneg_le s b
    rw [abs_of_nonneg ha0, abs_of_nonneg hb0]
    linarith
  rw [blockSpectrum, if_neg (by omega)]
  split_ifs
  · exact bytes_le _ _
  · simp [Cpx.absSum]
  · rw [Cpx.absSum, abs_neg]
    exact bytes_le _ _

end

section
variable {s : State} (legal : s.lenLegal = true)
include legal

/-- Bin `N - j` is the conjugate of bin `j`. -/
theorem blockSpectrum_mirror {j : Nat} (h1 : 1 ≤ j) (hk : j ≤ s.lenK) :
    blockSpectrum s (s.lenN - j) = ⟨(blockSpectrum s j).re, -(blockSpectrum s j).im⟩ := by
  obtain ⟨-, hN, -⟩ := lengths_of_legal legal
  have hback : s.lenN - (s.lenN - j) = j := by omega
  rw [blockSpectrum_interior s h1 hk, blockSpectrum, if_neg (by omega), if_neg (by omega), if_neg (by omega), hback]
  rfl

/-- A machine with this spectrum holds a Hermitian one (spec/42_symmetry.md R96). -/
theorem hermitian_of_blockSpectrum {t : State} (hlen : t.len = s.len)
    (h : ∀ j, j < s.lenN → spectrumOf t j = blockSpectrum s j) : Hermitian t := by
  obtain ⟨-, hN, -⟩ := lengths_of_legal legal
  have hre (j : Nat) (hj : j < s.lenN) : t.cell .sr j = (blockSpectrum s j).re := congrArg Cpx.re (h j hj)
  have him (j : Nat) (hj : j < s.lenN) : t.cell .si j = (blockSpectrum s j).im := congrArg Cpx.im (h j hj)
  have hhalf : s.lenN / 2 = s.lenK + 1 := by omega
  rw [Hermitian, lenN_congr hlen, hhalf]
  refine ⟨him 0 (by omega), ?_, fun j h1 hk => ?_⟩
  · rw [him _ (by omega), blockSpectrum_terminal]
  · rw [hre j (by omega), him j (by omega), hre _ (by omega), him _ (by omega), blockSpectrum_mirror legal h1 (by omega)]
    exact ⟨rfl, rfl⟩

end

/-! ## ENCODE -/

/-- Sample `n` of the encoded block (R120). -/
def encodedSample (s : State) : Nat → Cpx := inverseCell s.lenN (blockSpectrum s) (tableOf s)

/-- ENCODE of `s` ended without error in `t`, with the block's spectrum and its inverse transform, the table and the block
as before (R120). -/
structure Encoded (s t : State) : Prop extends Computed .encode samplesOf (encodedSample s) s t where
  spectrum : ∀ j, j < s.lenN → spectrumOf t j = blockSpectrum s j
  table : ∀ m, m < s.lenN → tableOf t m = tableOf s m
  block : ∀ i, i < s.lenL → t.bb i = s.bb i

/-- The sentinel's bin is at most `2^31` and every other bin at most `510 * STEP < 2^25`. -/
theorem sum_blockSpectrum_absSum_le (s : State) :
    ∑ j ∈ Finset.range s.lenN, (blockSpectrum s j).absSum ≤ 2 ^ 31 + s.lenN * 2 ^ 25 := by
  have hsent : (blockSpectrum s 0).absSum ≤ 2 ^ 31 := by
    obtain ⟨hlo, hhi⟩ := in32_iff.1 (in32_toInt s.sent)
    have habs : |s.sent.toInt| ≤ 2 ^ 31 := abs_le.2 ⟨hlo, by omega⟩
    simpa [Cpx.absSum, blockSpectrum_zero] using habs
  have hbin (j : Nat) : (blockSpectrum s (j + 1)).absSum ≤ 2 ^ 25 := by
    have hle := blockSpectrum_absSum_le s (Nat.le_add_left 1 j)
    have hstep := s.stepSize.isLt
    omega
  have hsum := Finset.sum_le_card_nsmul (Finset.range (s.lenL + 1)) (fun j => (blockSpectrum s (j + 1)).absSum) (2 ^ 25)
    fun j _ => hbin j
  rw [Finset.card_range, nsmul_eq_mul] at hsum
  have hN : s.lenN = s.lenL + 1 + 1 := rfl
  rw [hN, Finset.sum_range_succ']
  push_cast at hsum ⊢
  linarith

section
variable {s : State} (legal : s.lenLegal = true)
include legal

/-- With `N >= 4` each sample is at most `2^30 + 2^26` in magnitude, whatever the table. -/
theorem encodedSample_fits (n : Nat) : (encodedSample s n).fits = true := by
  obtain ⟨-, hN, hK, -⟩ := lengths_of_legal legal
  have hwithin (j : Nat) (_ : j < s.lenN) := tableOf_within s ((s.lenN - j * n % s.lenN) % s.lenN)
  obtain ⟨hre, him⟩ := sum_within_absSum (x := blockSpectrum s) hwithin
  have hsum := sum_blockSpectrum_absSum_le s
  have hbound : (∑ j ∈ Finset.range s.lenN, (blockSpectrum s j).absSum) * 2 ^ 31 ≤ 3 * 2 ^ 29 * (s.lenN * 2 ^ 30) := by
    omega
  exact rdiv_pair_fits (inverseDivisor_pos (lenN_pos s)) (hre.trans hbound) (him.trans hbound)

variable (hstep : s.stepSize ≠ 0#16)
include hstep

theorem exec_encode_some {t : State} (h : encodeBody s = some t) : exec .encode s = .next t.finish := by
  refine (checkLen_legal legal _).trans ((checkStep_legal hstep _).trans ?_)
  rw [h]
  rfl

/-- PACK and SYM leave the block's spectrum, and IFFT transforms it. -/
theorem exec_encode_of_fits (fits : ∀ n, n < s.lenN → (encodedSample s n).fits = true) :
    ∃ t, exec .encode s = .next t ∧ Encoded s t := by
  obtain ⟨hL, hLN, -, hK, -⟩ := lengths_of_legal legal
  obtain ⟨u, hsym, hspectrum, hcells, hblock, hframe, hregs⟩ := packSym_result legal
  obtain ⟨m, rfl⟩ : ∃ m, u = { s with mem := m } := ⟨_, hregs⟩
  have htable (i : Nat) (hi : i < s.lenN) : tableOf { s with mem := m } i = tableOf s i := by
    rw [tableOf, hcells .twr i (by decide) (by decide) (by omega), hcells .twi i (by decide) (by decide) (by omega),
      tableOf]
  have hsample (n : Nat) (hn : n < s.lenN) : inverseOf { s with mem := m } n = encodedSample s n :=
    inverseCell_congr hspectrum htable hn
  have hencode : encodeBody s = ifftBody { s with mem := m } := by rw [encodeBody, hsym, Option.bind_some]
  cases hbody : ifftBody { s with mem := m } with
  | none =>
    obtain ⟨n, hn, hout⟩ := (ifftBody_none_iff _).1 hbody
    cases hout.symm.trans ((congrArg Cpx.fits (hsample n hn)).trans (fits n hn))
  | some v =>
    obtain ⟨hvalues, hcells', hblock', hframe', hregs'⟩ := ifftBody_result (s := { s with mem := m }) legal hbody
    obtain ⟨m', rfl⟩ : ∃ m', v = { s with mem := m' } := ⟨_, hregs'⟩
    have hkept (r : Region) (j : Nat) (hj : j < s.lenN) (har : r ≠ .ar) (hai : r ≠ .ai) :=
      (finish_cell { s with mem := m' } r j).trans (hcells' r j har hai (by omega))
    refine ⟨_, exec_encode_some legal hstep (hencode.trans hbody),
      { status := ⟨rfl, rfl, rfl, rfl⟩, config := configKept_refl s, matchCount := rfl, values := fun n hn => ?_,
        frame := fun a ha => ?_, spectrum := fun j hj => ?_, table := fun i hi => ?_, block := fun i hi => ?_ }⟩
    · exact (hvalues n hn).trans (hsample n hn)
    · obtain ⟨hsr, hsi, har, hai⟩ : ¬inCells .sr 0 s.lenN a ∧ ¬inCells .si 0 s.lenN a ∧ ¬inCells .ar 0 s.lenN a ∧
        ¬inCells .ai 0 s.lenN a := by simpa only [Writes, not_or] using ha
      exact (hframe' a (not_or.2 ⟨har, hai⟩)).trans (hframe a (not_or.2 ⟨hsr, hsi⟩))
    · rw [← hspectrum j hj, spectrumOf, hkept .sr j hj (by decide) (by decide), hkept .si j hj (by decide) (by decide),
        spectrumOf]
    · rw [← htable i hi, tableOf, hkept .twr i hi (by decide) (by decide), hkept .twi i hi (by decide) (by decide),
        tableOf]
    · exact (hblock' i (by omega)).trans (hblock i (by omega))

theorem exec_encode_legal : ∃ t, exec .encode s = .next t ∧ Encoded s t :=
  exec_encode_of_fits legal hstep fun n _ => encodedSample_fits legal n

theorem encoded_of_exec {t : State} (h : exec .encode s = .next t) : Encoded s t := by
  obtain ⟨u, hu, hencoded⟩ := exec_encode_legal legal hstep
  cases hu.symm.trans h
  exact hencoded

end

/-- Settles O28: the sums are bounded by the widths of `SENT`, `STEP` and the table's entries. -/
theorem encodeNeverOverflows : Obligations.EncodeNeverOverflows := by
  intro s legal hstep
  obtain ⟨t, ht, hencoded⟩ := exec_encode_legal legal hstep
  exact ⟨fun n _ => encodedSample_fits legal n, t, ht, hencoded.status⟩

/-- Settles O27: the body runs PACK, SYM and IFFT. -/
theorem encodeTransformsTheBlock : Obligations.EncodeTransformsTheBlock := by
  intro s legal hstep fits
  obtain ⟨t, ht, ⟨status, config, hmatch, values, frame⟩, spectrum, -⟩ := exec_encode_of_fits legal hstep fits
  exact ⟨t, ht, status, config, hmatch, spectrum, values, frame⟩

section
variable {s t : State} (legal : s.lenLegal = true) (h : Encoded s t)
include h

theorem Encoded.len : t.len = s.len := by
  obtain ⟨-, hlen, -⟩ := h.config
  exact hlen

include legal

theorem Encoded.hermitian : Hermitian t := hermitian_of_blockSpectrum legal h.len h.spectrum

theorem Encoded.conjSymmetric : ConjSymmetric s.lenN fun j => (blockSpectrum s j).toComplex := by
  have hsymmetric := spectrumOf_conjSymmetric ((lenLegal_congr h.len).trans legal) (h.hermitian legal)
  rw [lenN_congr h.len] at hsymmetric
  intro j hj
  simpa only [h.spectrum j hj, h.spectrum _ (mirror_lt (lenN_pos s) j)] using hsymmetric j hj

/-- With symmetric tables the imaginary parts sum to 0 before they are rounded (spec/43_transform.md R104). -/
theorem Encoded.imaginary_zero (hsymmetric : SymmetricTable s) {n : Nat} (hn : n < s.lenN) : t.cell .ai n = 0 := by
  have hsum := sumIm_inverse_eq_zero (h.conjSymmetric legal) (tableOf_conjSymmetric hsymmetric) n
  calc t.cell .ai n = (encodedSample s n).im := congrArg Cpx.im (h.values n hn)
    _ = rdiv 0 (s.lenN * 2 ^ 30) := congrArg (rdiv · _) hsum
    _ = 0 := rdiv_zero (inverseDivisor_pos (lenN_pos s))

end

/-- Settles O35: the spectrum is the block's, which is its own mirror. -/
theorem encodeGivesRealSamples : Obligations.EncodeGivesRealSamples := by
  intro s t legal hstep _ ht _
  have h := encoded_of_exec legal hstep ht
  exact ⟨h.hermitian legal, fun hsymmetric n hn => h.imaginary_zero legal hsymmetric hn⟩

/-! ## DECODE and VERIFY -/

/-- FFT's body with `R = 1`, which DECODE and VERIFY begin with (R121, R122). -/
theorem realFft_of_fits {s : State} (legal : s.lenLegal = true)
    (fits : ∀ j, j < s.lenN → (forwardCell s.lenN (realSamplesOf s) (tableOf s) j).fits = true) :
    ∃ m, fftBody true s = some { s with mem := m } ∧
      (∀ j, j < s.lenN → spectrumOf { s with mem := m } j = forwardCell s.lenN (realSamplesOf s) (tableOf s) j) ∧
      (∀ i, i < s.lenL → ({ s with mem := m } : State).bb i = s.bb i) ∧
      (∀ a, ¬(inCells .sr 0 s.lenN a ∨ inCells .si 0 s.lenN a) → ({ s with mem := m } : State).byteAt a = s.byteAt a) := by
  obtain ⟨hL, -, -, hK, -⟩ := lengths_of_legal legal
  cases hbody : fftBody true s with
  | none =>
    obtain ⟨j, hj, hout⟩ := (fftBody_none_iff true s).1 hbody
    cases hout.symm.trans (fits j hj)
  | some t =>
    obtain ⟨hvalues, -, hblock, hframe, hregs⟩ := fftBody_result legal hbody
    obtain ⟨m, rfl⟩ : ∃ m, t = { s with mem := m } := ⟨_, hregs⟩
    exact ⟨m, rfl, hvalues, fun i hi => hblock i (by omega), hframe⟩

section
variable {s : State} (legal : s.lenLegal = true) (hstep : s.stepSize ≠ 0#16)
include legal hstep

theorem exec_decode_some {m : QMode} (hmode : s.narrowing = some m) {t : State} (h : fftBody true s = some t) :
    exec .decode s = .next (unpackBody m t).finish := by
  refine (checkLen_legal legal _).trans ((checkStep_legal hstep _).trans ((checkMode_legal hmode _).trans ?_))
  rw [decodeBody, h]
  rfl

theorem exec_decode_none {m : QMode} (hmode : s.narrowing = some m) (h : fftBody true s = none) :
    exec .decode s = .next ((s.unspecify (s.spectrumBytes ++ s.blockBytes)).raise .vod) := by
  refine (checkLen_legal legal _).trans ((checkStep_legal hstep _).trans ((checkMode_legal hmode _).trans ?_))
  rw [decodeBody, h]
  rfl

theorem exec_verify_some {t : State} (h : fftBody true s = some t) :
    exec .verify s = .next (t.setMatch t.matches).finish := by
  refine (checkLen_legal legal _).trans ((checkStep_legal hstep _).trans ?_)
  rw [verifyBody, h]
  rfl

end

/-- Byte `i` is made of bin `i + 1` or `i - k + 1`, both below `N` (spec/44_unpack.md R112). -/
theorem unpackedByte_congr_bins {s : State} (legal : s.lenLegal = true) {x y : Nat → Cpx}
    (h : ∀ j, j < s.lenN → x j = y j) (m : QMode) {i : Nat} (hi : i < s.lenL) :
    unpackedByte s m x i = unpackedByte s m y i := by
  obtain ⟨hL, hN, -⟩ := lengths_of_legal legal
  rw [unpackedByte, unpackedByte]
  split_ifs
  · rw [h _ (by omega)]
  · rw [h _ (by omega)]

/-- Settles O29: FFT leaves the bins, and UNPACK reads bins `1 .. k` of them. -/
theorem decodeRecoversTheBlock : Obligations.DecodeRecoversTheBlock := by
  intro s mode legal hstep hmode fits
  obtain ⟨m, hfft, hspectrum, -, hframe⟩ := realFft_of_fits legal fits
  have legal' : ({ s with mem := m } : State).lenLegal = true := legal
  refine ⟨_, exec_decode_some legal hstep (narrowing_of_selectsMode hmode) hfft, ⟨rfl, rfl, rfl, rfl⟩, configKept_refl s,
    rfl, fun j hj => ?_, fun i hi => ?_, fun a ha => ?_⟩
  · rw [← hspectrum j hj]
    simp only [spectrumOf, finish_cell, unpackBody_cell legal']
  · rw [finish_bb, unpackBody_bb legal']
    exact (if_pos hi).trans (unpackedByte_congr_bins legal hspectrum mode hi)
  · obtain ⟨hsr, hsi, hbb⟩ : ¬inCells .sr 0 s.lenN a ∧ ¬inCells .si 0 s.lenN a ∧ ¬inBlock s.lenL a := by
      simpa only [Writes, not_or] using ha
    rw [finish_byteAt, unpackBody_byteAt legal' mode a hbb, hframe a (not_or.2 ⟨hsr, hsi⟩)]

/-- The indices below `k` count the bins `1 .. k`. -/
theorem countP_range_succ (k : Nat) (p : Nat → Prop) [DecidablePred p] :
    (List.range k).countP (fun t => decide (p (t + 1))) = ((Finset.Icc 1 k).filter p).card := by
  induction k with
  | zero => rfl
  | succ k ih =>
    have hIcc : Finset.Icc 1 (k + 1) = insert (k + 1) (Finset.Icc 1 k) :=
      (Finset.insert_Icc_right_eq_Icc_add_one (by omega)).symm
    rw [List.range_succ, List.countP_append, ih, hIcc, Finset.filter_insert]
    by_cases hp : p (k + 1) <;> simp [hp]

/-- VERIFY's count after a transform that kept the registers and the block (R121). -/
theorem matches_eq_card {s t : State} (legal : s.lenLegal = true) (hlen : t.len = s.len) (hstep : t.stepSize = s.stepSize)
    (hblock : ∀ i, i < s.lenL → t.bb i = s.bb i) :
    t.matches =
      ((Finset.Icc 1 s.lenK).filter fun j => rdiv (t.cell .sr j) s.stepSize.toNat = (s.bb (j - 1)).toNat).card +
      ((Finset.Icc 1 s.lenK).filter fun j =>
        rdiv (t.cell .si j) s.stepSize.toNat = (s.bb (s.lenK + j - 1)).toNat).card := by
  obtain ⟨hL, -⟩ := lengths_of_legal legal
  rw [← countP_range_succ, ← countP_range_succ, State.matches, lenK_congr hlen]
  congr 1 <;> refine List.countP_congr fun i hi => ?_ <;> rw [List.mem_range] at hi
  · rw [hblock i (by omega), State.rq, hstep, Nat.add_sub_cancel]
  · rw [hblock (s.lenK + i) (by omega), State.rq, hstep, ← Nat.add_assoc, Nat.add_sub_cancel]

/-- Settles O30: the count is at most 1024, so that `MATCH` holds it. -/
theorem verifyCountsTheMatches : Obligations.VerifyCountsTheMatches := by
  intro s legal hstep fits
  obtain ⟨m, hfft, hspectrum, hblock, hframe⟩ := realFft_of_fits legal fits
  have hmatches := matches_le (s := { s with mem := m }) legal
  refine ⟨_, exec_verify_some legal hstep hfft, ⟨rfl, rfl, rfl, rfl⟩, configKept_refl s, hspectrum, ?_, hframe⟩
  exact (BitVec.toNat_ofNat _ 11).trans ((Nat.mod_eq_of_lt (by omega)).trans (matches_eq_card legal rfl rfl hblock))

/-! ## The commands that ENCODE and DECODE run in one -/

section
variable (s : State)

theorem symBody_finish : symBody s.finish = (symBody s).map State.finish := by
  have hoverflows : s.finish.negationOverflows = s.negationOverflows := rfl
  rw [symBody, symBody, hoverflows]
  cases s.negationOverflows <;> rfl

theorem storeResults_finish (re im : Region) (outs : List Cpx) :
    s.finish.storeResults re im outs = (s.storeResults re im outs).map State.finish := by
  rw [State.storeResults, State.storeResults]
  cases outs.all Cpx.fits <;> rfl

theorem ifftBody_finish : ifftBody s.finish = (ifftBody s).map State.finish :=
  storeResults_finish s .ar .ai (inverseOutputs s.lenN (s.complexCells .sr .si s.lenN) s.table)

theorem unpackBody_finish (m : QMode) : unpackBody m s.finish = (unpackBody m s).finish := rfl

end

/-- A command other than CLRERR that ends without error began without. -/
theorem noError_before {i : Instr} (hi : i ≠ .clrerr) {s t : State} (h : exec i s = .next t) (ht : t.err = .noError) :
    s.err = .noError := by
  obtain ⟨u, hu, -, herr⟩ := exec_keepsRejAndErr hi s
  cases hu.symm.trans h
  simpa [ht, eq_comm] using herr

section
variable {s t : State} (herr : t.err = .noError)
include herr

theorem exec_pack_noError (h : exec .pack s = .next t) :
    s.lenLegal = true ∧ s.stepSize ≠ 0#16 ∧ t = (packBody s).finish := by
  rcases execPack_cases s with ⟨-, e⟩ | ⟨-, -, e⟩ | ⟨legal, hstep, e⟩ <;> cases e.symm.trans h
  · cases herr
  · cases herr
  · exact ⟨legal, hstep, rfl⟩

theorem exec_sym_noError (h : exec .sym s = .next t) : ∃ u, symBody s = some u ∧ t = u.finish := by
  rcases execSym_cases s with ⟨-, e⟩ | ⟨-, -, e⟩ | ⟨-, u, hu, e⟩ <;> cases e.symm.trans h
  · cases herr
  · cases herr
  · exact ⟨u, hu, rfl⟩

theorem exec_ifft_noError (h : exec .ifft s = .next t) : ∃ u, ifftBody s = some u ∧ t = u.finish := by
  rcases execIfft_cases s with ⟨-, e⟩ | ⟨-, -, e⟩ | ⟨-, u, hu, e⟩ <;> cases e.symm.trans h
  · cases herr
  · cases herr
  · exact ⟨u, hu, rfl⟩

theorem exec_fft_noError {r : Bool} (h : exec (.fft r) s = .next t) : ∃ u, fftBody r s = some u ∧ t = u.finish := by
  rcases execFft_cases r s with ⟨-, e⟩ | ⟨-, -, e⟩ | ⟨-, u, hu, e⟩ <;> cases e.symm.trans h
  · cases herr
  · cases herr
  · exact ⟨u, hu, rfl⟩

theorem exec_unpack_noError (h : exec .unpack s = .next t) :
    s.lenLegal = true ∧ s.stepSize ≠ 0#16 ∧ ∃ m, s.narrowing = some m ∧ t = (unpackBody m s).finish := by
  rcases execUnpack_cases s with ⟨-, e⟩ | ⟨-, -, e⟩ | ⟨legal, hstep, m, hmode, e⟩ <;> cases e.symm.trans h
  · cases herr
  · cases herr
  · exact ⟨legal, hstep, m, hmode, rfl⟩

end

/-- Settles O31: a body after a completion is the completion of the body. -/
theorem encodeIsPackSymIfft : Obligations.EncodeIsPackSymIfft := by
  intro s a b c _ ha hb hc hcerr
  have hberr := noError_before (by decide) hc hcerr
  obtain ⟨legal, hstep, rfl⟩ := exec_pack_noError (noError_before (by decide) hb hberr) ha
  obtain ⟨_, hsym, rfl⟩ := exec_sym_noError hberr hb
  obtain ⟨_, hifft, rfl⟩ := exec_ifft_noError hcerr hc
  rw [symBody_finish] at hsym
  obtain ⟨u, hpacked, rfl⟩ := Option.map_eq_some_iff.1 hsym
  rw [ifftBody_finish, ifftBody_finish, Option.map_map] at hifft
  obtain ⟨v, hsamples, rfl⟩ := Option.map_eq_some_iff.1 hifft
  have hencode : encodeBody s = some v := by rw [encodeBody, hpacked, Option.bind_some, hsamples]
  exact (exec_encode_some legal hstep hencode).trans rfl

/-- Settles O32: UNPACK after a completion is the completion of UNPACK's body. -/
theorem decodeIsFftUnpack : Obligations.DecodeIsFftUnpack := by
  intro s a b _ ha hb hberr
  obtain ⟨t, hfft, rfl⟩ := exec_fft_noError (noError_before (by decide) hb hberr) ha
  obtain ⟨legal, hstep, m, hmode, rfl⟩ := exec_unpack_noError hberr hb
  have legal' : s.lenLegal = true := (lenLegal_congr (exec_len ha)).symm.trans legal
  obtain ⟨-, -, -, -, hregs⟩ := fftBody_result legal' hfft
  obtain ⟨mem, rfl⟩ : ∃ mem, t = { s with mem := mem } := ⟨_, hregs⟩
  rw [unpackBody_finish]
  exact exec_decode_some legal' hstep hmode hfft

/-! ## The round trip -/

/-- What FFT with `R = 1` computes after ENCODE: the forward transform of the encoded block's real samples. -/
def reanalysed (s : State) : Nat → Cpx := forwardCell s.lenN (realParts (encodedSample s)) (tableOf s)

/-- A byte comes back from every mode but `SAT_S8`, which clips it at 127 (spec/44_unpack.md R111). -/
theorem narrow_byte (m : QMode) (b : Byte) :
    (narrow m b.toNat).toNat = if m = .satS8 then min b.toNat 127 else b.toNat := by
  have hb : b.toNat ≤ 255 := Nat.le_of_lt_succ b.isLt
  cases m with
  | satS8 =>
    have hclip : min 127 (max (-128) (b.toNat : Int)) = (min b.toNat 127 : Nat) := by omega
    have h := byte_ofInt_toNat (v := (min b.toNat 127 : Nat)) (by omega) (by omega)
    rw [narrow, hclip, if_pos rfl]
    exact_mod_cast h
  | wrapS8 =>
    have h := narrow_wrapS8_toNat b.toNat
    rw [if_neg (by decide)]
    omega
  | satU8 =>
    have h := narrow_satU8_toNat b.toNat
    rw [if_neg (by decide)]
    omega

theorem stepSize_times_le (s : State) : (510 * s.stepSize.toNat : Int) ≤ 2 ^ 30 := by
  have hstep := s.stepSize.isLt
  omega

/-- With a sentinel as small as the other bins, `510 * STEP` bounds every bin (R123). -/
theorem blockSpectrum_componentSum_le {s : State} (hsent : |s.sent.toInt| ≤ 510 * s.stepSize.toNat) (j : Nat) :
    componentSum (blockSpectrum s j).toComplex ≤ (510 * s.stepSize.toNat : Int) := by
  have hbin : (blockSpectrum s j).absSum ≤ 510 * s.stepSize.toNat := by
    rcases Nat.eq_zero_or_pos j with rfl | h1
    · simpa [Cpx.absSum, blockSpectrum_zero] using hsent
    · exact blockSpectrum_absSum_le s h1
  simp only [componentSum, Cpx.toComplex, Cpx.absSum] at hbin ⊢
  exact_mod_cast hbin

section
variable {s t : State} (legal : s.lenLegal = true) (h : Encoded s t)
include h

theorem Encoded.forward_eq {j : Nat} (hj : j < t.lenN) :
    forwardCell t.lenN (realSamplesOf t) (tableOf t) j = reanalysed s j := by
  rw [lenN_congr h.len] at hj ⊢
  exact forwardCell_congr (fun n hn => congrArg (fun z : Cpx => (⟨z.re, 0⟩ : Cpx)) (h.values n hn)) h.table hj

variable (hstandard : HoldsStandardTable s) (hsent : |s.sent.toInt| ≤ 510 * s.stepSize.toNat)
include legal hstandard hsent

/-- The accuracy of IFFT and FFT (spec/43_transform.md R105), for the block's spectrum. -/
theorem Encoded.reanalysed_near {j : Nat} (hj : j < s.lenN) :
    ComponentsLe (errorBound s.lenN (510 * s.stepSize.toNat : Int) : ℚ)
      ((reanalysed s j).toComplex - (blockSpectrum s j).toComplex) := by
  have : NeZero s.lenN := ⟨(lenN_pos s).ne'⟩
  rw [errorBound_cast]
  exact forward_realInverse_near (fun m hm => tableOf_nearestTo hstandard hm)
    (fun i _ => blockSpectrum_componentSum_le hsent i) (by exact_mod_cast stepSize_times_le s) (h.conjSymmetric legal) hj

theorem Encoded.reanalysed_fits {j : Nat} (hj : j < s.lenN) : (reanalysed s j).fits = true := by
  obtain ⟨-, -, -, -, hN⟩ := lengths_of_legal legal
  have hbound := (h.reanalysed_near legal hstandard hsent hj).add
    (.of_componentSum_le (blockSpectrum_componentSum_le hsent j))
  have hM : ((510 * s.stepSize.toNat : Int) : ℝ) ≤ 2 ^ 30 := by exact_mod_cast stepSize_times_le s
  rw [sub_add_cancel] at hbound
  exact fits_of_componentsLe hbound (by linarith [errorBound_le hN (stepSize_times_le s)])

variable (hbound : (s.stepSize.toNat : ℚ) > 2 * errorBound s.lenN (510 * s.stepSize.toNat))
  (hstep : s.stepSize ≠ 0#16)
include hbound hstep

/-- Each part of an interior bin is within half a `STEP` of its dequantized byte (R123). -/
theorem Encoded.reanalysed_quantizes {j : Nat} (h1 : 1 ≤ j) (hk : j ≤ s.lenK) :
    rdiv (reanalysed s j).re s.stepSize.toNat = (s.bb (j - 1)).toNat ∧
    rdiv (reanalysed s j).im s.stepSize.toNat = (s.bb (s.lenK + j - 1)).toNat := by
  obtain ⟨-, hN, -⟩ := lengths_of_legal legal
  obtain ⟨hre, him⟩ := h.reanalysed_near legal hstandard hsent (j := j) (by omega)
  have hhalf : 2 * ((errorBound s.lenN (510 * s.stepSize.toNat : Int) : ℚ) : ℝ) < s.stepSize.toNat := by
    push_cast
    exact_mod_cast hbound
  rw [blockSpectrum_interior s h1 hk] at hre him
  simp only [Cpx.toComplex, Complex.sub_re, Complex.sub_im, State.deq] at hre him
  have near {v b : Int} (hv : |(v : ℝ) - (b * s.stepSize.toNat : Int)| ≤
      ((errorBound s.lenN (510 * s.stepSize.toNat : Int) : ℚ) : ℝ)) : rdiv v s.stepSize.toNat = b := by
    have hreal : 2 * |(v : ℝ) - (b * s.stepSize.toNat : Int)| < s.stepSize.toNat := by linarith
    exact rdiv_eq_of_near (stepSize_pos hstep) (by exact_mod_cast hreal)
  exact ⟨near hre, near him⟩

/-- The same in the terms of the state that DECODE and VERIFY begin in. -/
theorem Encoded.forward_quantizes {j : Nat} (h1 : 1 ≤ j) (hk : j ≤ t.lenK) :
    rdiv (forwardCell t.lenN (realSamplesOf t) (tableOf t) j).re t.stepSize.toNat = (t.bb (j - 1)).toNat ∧
    rdiv (forwardCell t.lenN (realSamplesOf t) (tableOf t) j).im t.stepSize.toNat = (t.bb (t.lenK + j - 1)).toNat := by
  obtain ⟨-, hlen, hstepKept, -⟩ := h.config
  obtain ⟨hL, hN, -⟩ := lengths_of_legal legal
  rw [lenK_congr hlen] at hk ⊢
  rw [h.forward_eq (by rw [lenN_congr hlen]; omega), hstepKept, h.block _ (by omega), h.block _ (by omega)]
  exact h.reanalysed_quantizes legal hstandard hsent hbound hstep h1 hk

theorem Encoded.unpackedByte_eq (m : QMode) {i : Nat} (hi : i < t.lenL) :
    unpackedByte t m (forwardCell t.lenN (realSamplesOf t) (tableOf t)) i = narrow m (t.bb i).toNat := by
  obtain ⟨hL, -⟩ := lengths_of_legal ((lenLegal_congr h.len).trans legal)
  have hbin {j : Nat} (h1 : 1 ≤ j) (hk : j ≤ t.lenK) :=
    h.forward_quantizes legal hstandard hsent hbound hstep h1 hk
  rw [unpackedByte]
  split_ifs with hk
  · obtain ⟨hre, -⟩ := hbin (j := i + 1) (by omega) (by omega)
    rw [hre, Nat.add_sub_cancel]
  · obtain ⟨-, him⟩ := hbin (j := i - t.lenK + 1) (by omega) (by omega)
    have hindex : t.lenK + (i - t.lenK + 1) - 1 = i := by omega
    rw [him, hindex]

end

theorem stepSize_ne_zero_of_bound {s : State}
    (h : (s.stepSize.toNat : ℚ) > 2 * errorBound s.lenN (510 * s.stepSize.toNat)) : s.stepSize ≠ 0#16 := by
  intro hzero
  have hpos : 0 < errorBound s.lenN (510 * s.stepSize.toNat) := by
    rw [errorBound]
    positivity
  have hstep : (s.stepSize.toNat : ℚ) = 0 := by simp [hzero]
  linarith

/-- Settles O37: each bin is quantized to its bytes, which are what DECODE stores and what VERIFY compares. -/
theorem encodeThenDecodeReturnsTheBlock : Obligations.EncodeThenDecodeReturnsTheBlock := by
  intro s m legal herr hstandard hmode hsent hbound
  have hstep := stepSize_ne_zero_of_bound hbound
  obtain ⟨t, ht, h⟩ := exec_encode_legal legal hstep
  obtain ⟨hmodeKept, hlen, hstepKept, -⟩ := h.config
  have legal' := (lenLegal_congr hlen).trans legal
  have hstep' : t.stepSize ≠ 0#16 := hstepKept ▸ hstep
  have hterr : t.err = .noError := h.err.trans herr
  have hfits (j : Nat) (hj : j < t.lenN) : (forwardCell t.lenN (realSamplesOf t) (tableOf t) j).fits = true := by
    rw [h.forward_eq hj]
    exact h.reanalysed_fits legal hstandard hsent (lenN_congr hlen ▸ hj)
  obtain ⟨u, hu, ⟨-, -, -, huerr⟩, -, -, -, hblock, -⟩ :=
    decodeRecoversTheBlock t m legal' hstep' (by rwa [SelectsMode, hmodeKept]) hfits
  obtain ⟨v, hv, ⟨-, -, -, hverr⟩, -, hspectrum, hcount, -⟩ := verifyCountsTheMatches t legal' hstep' hfits
  obtain ⟨hL, hN, -⟩ := lengths_of_legal legal'
  refine ⟨t, u, v, ht, hterr, hu, huerr.trans hterr, hv, hverr.trans hterr, ?_, fun i hi => ?_⟩
  · have hmatch (j : Nat) (hj : j ∈ Finset.Icc 1 t.lenK) :
        rdiv (v.cell .sr j) t.stepSize.toNat = (t.bb (j - 1)).toNat ∧
        rdiv (v.cell .si j) t.stepSize.toNat = (t.bb (t.lenK + j - 1)).toNat := by
      obtain ⟨h1, hk⟩ := Finset.mem_Icc.1 hj
      have hbin := hspectrum j (by omega)
      have hre : v.cell .sr j = _ := congrArg Cpx.re hbin
      have him : v.cell .si j = _ := congrArg Cpx.im hbin
      rw [hre, him]
      exact h.forward_quantizes legal hstandard hsent hbound hstep h1 hk
    rw [hcount, Finset.filter_true_of_mem fun j hj => (hmatch j hj).left,
      Finset.filter_true_of_mem fun j hj => (hmatch j hj).right, Nat.card_Icc, ← lenL_congr hlen]
    omega
  · rw [← lenL_congr hlen] at hi
    rw [hblock i hi, h.unpackedByte_eq legal hstandard hsent hbound hstep m hi, narrow_byte,
      h.block i (lenL_congr hlen ▸ hi)]

/-! ## Transforms of one bin and of one value -/

/-- Entry 0 of a standard table is `2^30` exactly (spec/43_transform.md R103). -/
theorem eq_of_nearestTo_zero {z : Cpx} (h : z.NearestTo 0) : z = ⟨2 ^ 30, 0⟩ := by
  obtain ⟨hre, him⟩ := h
  rw [Real.cos_zero, mul_one] at hre
  rw [Real.sin_zero, mul_zero, add_zero] at him
  have eq_of_near {v w : Int} (hv : |(v : ℝ) - w| ≤ 1 / 2) : v = w := by
    have hlt : |(v : ℝ) - w| < 1 := by linarith
    have hlt : |v - w| < 1 := by exact_mod_cast hlt
    exact sub_eq_zero.1 (Int.abs_lt_one_iff.1 hlt)
  have hre := eq_of_near (v := z.re) (w := 2 ^ 30) (by exact_mod_cast hre)
  have him := eq_of_near (v := z.im) (w := 0) (by simpa using him)
  exact congrArg₂ Cpx.mk hre him

/-- The inverse transform of bin 0 alone is constant. -/
theorem inverseCell_of_bin_zero {n : Nat} (hn : 0 < n) {x t : Nat → Cpx} {a : Int} (hx0 : x 0 = ⟨a, 0⟩)
    (hx : ∀ j, 0 < j → j < n → x j = ⟨0, 0⟩) (ht : t 0 = ⟨2 ^ 30, 0⟩) (m : Nat) :
    inverseCell n x t m = ⟨rdiv a n, 0⟩ := by
  have hindex : (n - 0 * m % n) % n = 0 := by simp
  have hzero {j : Nat} (hj : j ∈ Finset.range n) (hne : j ≠ 0) : x j = ⟨0, 0⟩ :=
    hx j (Nat.pos_of_ne_zero hne) (Finset.mem_range.1 hj)
  have hmem : 0 ∈ Finset.range n := Finset.mem_range.2 hn
  have hre : sumRe n x t (fun j => (n - j * m % n) % n) = a * 2 ^ 30 := by
    rw [sumRe, Finset.sum_eq_single_of_mem 0 hmem fun j hj hne => by simp [hzero hj hne], hindex, hx0, ht]
    ring
  have him : sumIm n x t (fun j => (n - j * m % n) % n) = 0 := by
    rw [sumIm, Finset.sum_eq_single_of_mem 0 hmem fun j hj hne => by simp [hzero hj hne], hindex, hx0, ht]
    ring
  rw [inverseCell, hre, him, rdiv_mul_mul_right (by norm_num), rdiv_zero (inverseDivisor_pos hn)]

/-- The exact table entries of a bin other than bin 0 sum to 0 (R124). -/
theorem sum_twiddle_eq_zero {n : Nat} [NeZero n] {j : Nat} (h0 : 0 < j) (hj : j < n) :
    ∑ i ∈ Finset.range n, twiddle n (j * i % n) = 0 := by
  have hne : -(j : ZMod n) ≠ 0 := by
    rw [neg_ne_zero, Ne, ZMod.natCast_eq_zero_iff]
    exact Nat.not_dvd_of_pos_of_lt h0 hj
  calc ∑ i ∈ Finset.range n, twiddle n (j * i % n)
      = ∑ i ∈ Finset.range n, ZMod.stdAddChar ((i : ZMod n) * -(j : ZMod n)) := Finset.sum_congr rfl fun i _ => by
        rw [twiddle_eq_stdAddChar, ZMod.natCast_mod, Nat.cast_mul, mul_neg, mul_comm]
    _ = ∑ a : ZMod n, ZMod.stdAddChar (a * -(j : ZMod n)) := 
      sum_range_natCast fun a => ZMod.stdAddChar (a * -(j : ZMod n))
    _ = 0 := by rw [AddChar.sum_mulShift _ (ZMod.isPrimitive_stdAddChar n), if_neg hne, Nat.cast_zero]

section
variable {n : Nat} {x t : Nat → Cpx} {c : Int} (hx : ∀ i, i < n → x i = ⟨c, 0⟩)
include hx

/-- Bin 0 of the forward transform of a constant is its sum. -/
theorem forwardCell_zero_of_constant (ht : t 0 = ⟨2 ^ 30, 0⟩) : forwardCell n x t 0 = ⟨n * c, 0⟩ := by
  have hre : sumRe n x t (fun i => 0 * i % n) = n * c * 2 ^ 30 := by
    rw [sumRe, Finset.sum_congr rfl fun i hi => by rw [hx i (Finset.mem_range.1 hi), Nat.zero_mul, Nat.zero_mod, ht]]
    simp
    ring
  have him : sumIm n x t (fun i => 0 * i % n) = 0 := by
    rw [sumIm, Finset.sum_congr rfl fun i hi => by rw [hx i (Finset.mem_range.1 hi), Nat.zero_mul, Nat.zero_mod, ht]]
    simp
  rw [forwardCell, hre, him, rdiv_mul_cancel (by norm_num), rdiv_zero (by norm_num)]

/-- Every other bin holds rounding errors only: `N / 2` units in the sum of the table's entries, times `c * 2^-30`, and
half a unit from the division (R124). -/
theorem forwardCell_of_constant_within [NeZero n] (ht : ∀ m, m < n → (t m).NearestTo (2 * Real.pi * m / n))
    (hc : n * |c| < 3 * 2 ^ 30) {j : Nat} (h0 : 0 < j) (hj : j < n) : (forwardCell n x t j).Within 1 := by
  have hcell (i : Nat) (hi : i < n) : (x i).toComplex = (c : ℂ) := by
    rw [hx i hi]
    apply Complex.ext <;> simp [Cpx.toComplex]
  have hsize (i : Nat) (hi : i < n) : componentSum (x i).toComplex ≤ |(c : ℝ)| := by
    rw [hcell i hi]
    simp [componentSum]
  have hnear := roundedSums_near (index := fun i => j * i % n) (c := 1) (d := 2 ^ 30) (by norm_num) (by norm_num) hsize
    fun i _ => ht _ (Nat.mod_lt _ (NeZero.pos n))
  rw [Finset.sum_congr rfl fun i hi => by rw [hcell i (Finset.mem_range.1 hi)], ← Finset.mul_sum,
    sum_twiddle_eq_zero h0 hj, mul_zero, mul_zero, sub_zero, inv_one, one_mul] at hnear
  have hc' : (n : ℝ) * |(c : ℝ)| < 3 * 2 ^ 30 := by exact_mod_cast hc
  have le_one {v : Int} (hv : |(v : ℝ)| ≤ 1 / 2 + n * |(c : ℝ)| / 2 ^ 31) : |v| ≤ 1 := by
    have hlt : |(v : ℝ)| < 2 := by linarith
    have hlt : |v| < 2 := by exact_mod_cast hlt
    omega
  obtain ⟨hre, him⟩ := hnear
  exact ⟨le_one hre, le_one him⟩

end

/-! ## The zero block -/

/-- The block of 1024 zero bytes with the standard table and a `STEP` of at least 3 (R124). -/
structure ZeroBlock (s : State) : Prop where
  len : s.len = 1024#11
  standard : HoldsStandardTable s
  step : 3 ≤ s.stepSize.toNat
  zero : ∀ i, i < 1024 → s.bb i = 0#8

/-- What every sample of the encoded zero block holds. -/
def zeroBlockSample (s : State) : Int := rdiv s.sent.toInt 1026

theorem zeroBlockSample_bounds (s : State) : -2093065 ≤ zeroBlockSample s ∧ zeroBlockSample s ≤ 2093065 := by
  obtain ⟨hlo, hhi⟩ := in32_iff.1 (in32_toInt s.sent)
  rw [zeroBlockSample, rdiv]
  omega

/-- The sentinels for which bin 0 of the decoded window, the sum of its samples, fits a cell. -/
theorem in32_bin_zero_iff (s : State) :
    in32 (1026 * zeroBlockSample s) = true ↔ -2147483151 ≤ s.sent.toInt ∧ s.sent.toInt ≤ 2147483150 := by
  rw [in32_iff, zeroBlockSample, rdiv]
  omega

/-- Every mode stores the byte 0 for a bin of `-1`, `0` or `1`, as `STEP` is at least 3. -/
theorem narrow_rdiv_of_abs_le_one {v d : Int} (hd : 3 ≤ d) (hv : |v| ≤ 1) (m : QMode) : narrow m (rdiv v d) = 0#8 := by
  obtain ⟨hlo, hhi⟩ := abs_le.1 hv
  have hzero : rdiv v d = 0 := (rdiv_eq_iff (by omega) v 0).2 ⟨by linarith, by linarith⟩
  rw [hzero, narrow_eq_ofInt le_rfl (by decide)]
  rfl

section
variable {s : State} (hs : ZeroBlock s)
include hs

theorem ZeroBlock.lenL : s.lenL = 1024 := congrArg BitVec.toNat hs.len

theorem ZeroBlock.lenN : s.lenN = 1026 := congrArg (· + 2) hs.lenL

theorem ZeroBlock.legal : s.lenLegal = true := (lenLegal_iff s).2 (by have := hs.lenL; omega)

theorem ZeroBlock.stepSize_ne_zero : s.stepSize ≠ 0#16 := by
  have hstep := hs.step
  intro hzero
  simp [hzero] at hstep

theorem ZeroBlock.nearestTo {m : Nat} (hm : m < 1026) : (tableOf s m).NearestTo (2 * Real.pi * m / (1026 : Nat)) := by
  have h := tableOf_nearestTo hs.standard (hs.lenN ▸ hm)
  rwa [hs.lenN] at h

theorem ZeroBlock.table_zero : tableOf s 0 = ⟨2 ^ 30, 0⟩ :=
  eq_of_nearestTo_zero (by simpa using hs.nearestTo (m := 0) (by decide))

theorem ZeroBlock.blockSpectrum_eq_zero {j : Nat} (h0 : 0 < j) (hj : j < 1026) : blockSpectrum s j = ⟨0, 0⟩ := by
  obtain ⟨hL, hN, -⟩ := lengths_of_legal hs.legal
  have hlen := hs.lenL
  have hdeq {i : Nat} (hi : i < 1024) : s.deq (s.bb i) = 0 := by simp [State.deq, hs.zero i hi]
  have hhead {i : Nat} (h1 : 1 ≤ i) (hk : i ≤ s.lenK) : blockSpectrum s i = ⟨0, 0⟩ := by
    rw [blockSpectrum_interior s h1 hk, hdeq (by omega), hdeq (by omega)]
  rcases lt_trichotomy j (s.lenK + 1) with hlt | rfl | hgt
  · exact hhead h0 (by omega)
  · exact blockSpectrum_terminal s
  · have hback : s.lenN - (s.lenN - j) = j := by omega
    rw [← hback, blockSpectrum_mirror hs.legal (by omega) (by omega), hhead (by omega) (by omega)]
    rfl

theorem ZeroBlock.encodedSample_eq (n : Nat) : encodedSample s n = ⟨zeroBlockSample s, 0⟩ := by
  have h := inverseCell_of_bin_zero (n := 1026) (by decide) (blockSpectrum_zero s)
    (fun j h0 hj => hs.blockSpectrum_eq_zero h0 hj) hs.table_zero n
  rw [encodedSample, hs.lenN]
  exact h

variable {t : State} (h : Encoded s t)
include h

theorem ZeroBlock.samples {n : Nat} (hn : n < 1026) : t.cell .ar n = zeroBlockSample s ∧ t.cell .ai n = 0 := by
  have hvalue := h.values n (by rwa [hs.lenN])
  rw [hs.encodedSample_eq] at hvalue
  exact Cpx.mk.inj hvalue

theorem ZeroBlock.after_encode : ZeroBlock t := by
  obtain ⟨-, hlen, hstep, -⟩ := h.config
  have htable : t.table = s.table := by
    rw [State.table, State.table, lenN_congr hlen]
    exact List.map_congr_left fun m hm => h.table m (List.mem_range.1 hm)
  refine ⟨hlen.trans hs.len, ?_, hstep ▸ hs.step, fun i hi => ?_⟩
  · rw [HoldsStandardTable, htable]
    exact hs.standard
  · rw [h.block i (by rwa [hs.lenL]), hs.zero i hi]

theorem ZeroBlock.realSamplesOf_eq {n : Nat} (hn : n < 1026) : realSamplesOf t n = ⟨zeroBlockSample s, 0⟩ := by
  obtain ⟨har, -⟩ := hs.samples h hn
  rw [realSamplesOf, har]

theorem ZeroBlock.bin_zero : forwardCell t.lenN (realSamplesOf t) (tableOf t) 0 = ⟨1026 * zeroBlockSample s, 0⟩ := by
  rw [(hs.after_encode h).lenN]
  exact forwardCell_zero_of_constant (fun i hi => hs.realSamplesOf_eq h hi) (hs.after_encode h).table_zero

theorem ZeroBlock.bin_within {j : Nat} (h0 : 0 < j) (hj : j < 1026) :
    (forwardCell t.lenN (realSamplesOf t) (tableOf t) j).Within 1 := by
  have hsample := abs_le.2 (zeroBlockSample_bounds s)
  rw [(hs.after_encode h).lenN]
  exact forwardCell_of_constant_within (fun i hi => hs.realSamplesOf_eq h hi)
    (fun m hm => (hs.after_encode h).nearestTo hm) (by push_cast; linarith) h0 hj

theorem ZeroBlock.bins_fit (hfits : in32 (1026 * zeroBlockSample s) = true) {j : Nat} (hj : j < 1026) :
    (forwardCell t.lenN (realSamplesOf t) (tableOf t) j).fits = true := by
  rcases Nat.eq_zero_or_pos j with rfl | h0
  · rw [hs.bin_zero h]
    exact cpx_fits_iff.2 ⟨hfits, rfl⟩
  · obtain ⟨hre, him⟩ := hs.bin_within h h0 hj
    exact cpx_fits_iff.2 ⟨in32_of_abs_le (hre.trans (by norm_num)), in32_of_abs_le (him.trans (by norm_num))⟩

/-- DECODE of the encoded zero block when bin 0 fits. -/
theorem ZeroBlock.decode_of_fits {m : QMode} (hmode : SelectsMode t m) (hfits : in32 (1026 * zeroBlockSample s) = true) :
    ∃ u, exec .decode t = .next u ∧ u.err = t.err ∧ ∀ i, i < 1024 → u.bb i = 0#8 := by
  have ht := hs.after_encode h
  obtain ⟨hL, hN, -⟩ := lengths_of_legal ht.legal
  obtain ⟨u, hu, ⟨-, -, -, herr⟩, -, -, -, hblock, -⟩ :=
    decodeRecoversTheBlock t m ht.legal ht.stepSize_ne_zero hmode fun j hj => hs.bins_fit h hfits (ht.lenN ▸ hj)
  have hlen := ht.lenL
  have hd : (3 : Int) ≤ t.stepSize.toNat := by exact_mod_cast ht.step
  refine ⟨u, hu, herr, fun i hi => ?_⟩
  rw [hblock i (by omega), unpackedByte]
  split_ifs with hk
  · obtain ⟨hre, -⟩ := hs.bin_within h (j := i + 1) (by omega) (by omega)
    exact narrow_rdiv_of_abs_le_one hd hre m
  · obtain ⟨-, him⟩ := hs.bin_within h (j := i - t.lenK + 1) (by omega) (by omega)
    exact narrow_rdiv_of_abs_le_one hd him m

/-- DECODE of the encoded zero block when bin 0 does not fit (spec/43_transform.md R102). -/
theorem ZeroBlock.decode_of_overflow {m : QMode} (hmode : SelectsMode t m)
    (hout : in32 (1026 * zeroBlockSample s) = false) : ∃ u, exec .decode t = .next u ∧ u.err = .vod := by
  have ht := hs.after_encode h
  have hbin : (forwardCell t.lenN (realSamplesOf t) (tableOf t) 0).fits = false := by
    rw [hs.bin_zero h, Cpx.fits, hout, Bool.false_and]
  have hnone := (fftBody_none_iff true t).2 ⟨0, lenN_pos t, hbin⟩
  exact ⟨_, exec_decode_none ht.legal ht.stepSize_ne_zero (narrowing_of_selectsMode hmode) hnone, rfl⟩

end

/-- Settles O39: DECODE raises or not as bin 0, the sum of the equal samples, fits or not. -/
theorem zeroBlockForModerateSentinel : Obligations.ZeroBlockForModerateSentinel := by
  intro s m hlen herr hstandard hmode hstep hzero
  have hs : ZeroBlock s := ⟨hlen, hstandard, hstep, hzero⟩
  obtain ⟨t, ht, h⟩ := exec_encode_legal hs.legal hs.stepSize_ne_zero
  obtain ⟨hmodeKept, -⟩ := h.config
  have hmode' : SelectsMode t m := by rwa [SelectsMode, hmodeKept]
  have hterr : t.err = .noError := h.err.trans herr
  have hrange := in32_bin_zero_iff s
  cases hfits : in32 (1026 * zeroBlockSample s) with
  | true =>
    obtain ⟨u, hu, huerr, hblock⟩ := hs.decode_of_fits h hmode' hfits
    refine ⟨t, u, ht, hterr, fun n hn => hs.samples h hn, hu, fun _ => ⟨huerr.trans hterr, hblock⟩, fun hout => ?_⟩
    have hin := hrange.1 hfits
    omega
  | false =>
    obtain ⟨u, hu, huerr⟩ := hs.decode_of_overflow h hmode' hfits
    refine ⟨t, u, ht, hterr, fun n hn => hs.samples h hn, hu, fun hin => ?_, fun _ => huerr⟩
    cases hfits.symm.trans (hrange.2 hin)

/-! ## The sentinel that refutes R124 as it stands -/

/-- The standard table's entry for an angle, by rounding (spec/43_transform.md R103). -/
noncomputable def nearestEntry (θ : ℝ) : Cpx := ⟨round (2 ^ 30 * Real.cos θ), round (-(2 ^ 30 * Real.sin θ))⟩

theorem nearestEntry_nearestTo (θ : ℝ) : (nearestEntry θ).NearestTo θ := by
  have hcos := abs_sub_round (2 ^ 30 * Real.cos θ)
  have hsin := abs_sub_round (-(2 ^ 30 * Real.sin θ))
  rw [abs_sub_comm] at hcos hsin
  rw [sub_neg_eq_add] at hsin
  exact ⟨hcos, hsin⟩

/-- An entry of a standard table is at most `2^30 + 1/2` in magnitude. -/
theorem Cpx.NearestTo.fits {z : Cpx} {n m : Nat} (h : z.NearestTo (2 * Real.pi * m / n)) : z.fits = true := by
  have hbound := h.componentsLe.add ((twiddle_componentsLe n m).smul (by norm_num : (0 : ℝ) ≤ 2 ^ 30))
  rw [sub_add_cancel] at hbound
  exact fits_of_componentsLe hbound (by norm_num)

/-- Every machine with a legal `LEN` can be given the standard table. -/
theorem exists_standardTable {s : State} (legal : s.lenLegal = true) :
    ∃ t, t = { s with mem := t.mem } ∧ HoldsStandardTable t ∧ ∀ i, i < 0x1000 → t.bb i = s.bb i := by
  obtain ⟨-, -, -, -, hN⟩ := lengths_of_legal legal
  have hnear (m : Nat) := nearestEntry_nearestTo (2 * Real.pi * m / s.lenN)
  cases hstore : s.storeResults .twr .twi
      ((List.range s.lenN).map fun m : Nat => nearestEntry (2 * Real.pi * m / s.lenN)) with
  | none =>
    obtain ⟨m, -, hout⟩ := (storeResults_none_iff s _ _ _ _).1 hstore
    cases hout.symm.trans (hnear m).fits
  | some t =>
    obtain ⟨hentries, -, hblock, -, hregs⟩ := storeResults_some (by decide) (by omega) hstore
    have hlenN : t.lenN = s.lenN := by rw [hregs]; rfl
    have htable : t.table = (List.range s.lenN).map fun m : Nat => nearestEntry (2 * Real.pi * m / s.lenN) := by
      rw [State.table, State.complexCells, hlenN]
      refine List.map_congr_left fun m hm => ?_
      obtain ⟨hre, him⟩ := hentries m (List.mem_range.1 hm)
      rw [hre, him]
    refine ⟨t, hregs, (isStandardTable_iff _).2 fun m hm => ?_, hblock⟩
    rw [htable, List.length_map, List.length_range] at hm ⊢
    rw [cpxAt_map_range hm]
    exact hnear m

/-- The zero block, `LEN = 1024`, `STEP = 3`, and the least positive sentinel for which bin 0 does not fit. -/
def largeSentinelZeroBlock : State :=
  ({ State.reset with len := 1024#11, stepSize := 3#16, sent := 2147483151#32 } : State).storeBytes bbAddr
    (List.replicate 1024 0#8)

theorem largeSentinelZeroBlock_bb {i : Nat} (hi : i < 1024) : largeSentinelZeroBlock.bb i = 0#8 := by
  rw [largeSentinelZeroBlock, bb_storeBytes, List.length_replicate, if_pos hi, List.getD_replicate _ hi]

/-- Refutes O38: for `SENT = 2147483151` DECODE of the encoded zero block raises `ERR_VOD`. -/
theorem not_zeroBlockForAnySentinel : ¬ Obligations.ZeroBlockForAnySentinel := by
  intro hany
  obtain ⟨s, hregs, hstandard, hblock⟩ := exists_standardTable (s := largeSentinelZeroBlock) (by decide)
  have hlen : s.len = 1024#11 := by rw [hregs]; rfl
  have herr : s.err = .noError := by rw [hregs]; rfl
  have hmode : SelectsMode s .satS8 := .inl ⟨by rw [hregs]; rfl, rfl⟩
  have hstep : 3 ≤ s.stepSize.toNat := by rw [hregs]; exact le_refl 3
  have hzero (i : Nat) (hi : i < 1024) : s.bb i = 0#8 := (hblock i (by omega)).trans (largeSentinelZeroBlock_bb hi)
  have hsent : s.sent.toInt = 2147483151 := by rw [hregs]; rfl
  obtain ⟨t, u, ht, -, -, hu, huerr, -⟩ := hany s .satS8 hlen herr hstandard hmode hstep hzero
  obtain ⟨_, _, ht', -, -, hu', -, hraises⟩ :=
    zeroBlockForModerateSentinel s .satS8 hlen herr hstandard hmode hstep hzero
  cases ht.symm.trans ht'
  cases hu.symm.trans hu'
  cases huerr.symm.trans (hraises (.inr (by rw [hsent]; decide)))

end Sys2Proof.Machine

/-! # The exceptions of spec/60_exceptions.md

What raising `ERR_VOD` leaves (R131, R133), the ways out of the halted state (R134, R135), and the bytes that no outcome of
a command changes (R133). -/

namespace Sys2Proof.Machine

open Sys2Proof.Safety

/-! ## `ERR_VOD` of the transforms -/

section
variable {s : State} (legal : s.lenLegal = true)
include legal

theorem exec_ifft_none (h : ifftBody s = none) : exec .ifft s = .next ((s.unspecify s.sampleBytes).raise .vod) := by
  refine (checkLen_legal legal _).trans ?_
  rw [h]
  rfl

theorem exec_fft_none {r : Bool} (h : fftBody r s = none) :
    exec (.fft r) s = .next ((s.unspecify s.spectrumBytes).raise .vod) := by
  refine (checkLen_legal legal _).trans ?_
  rw [h]
  rfl

theorem exec_verify_none (hstep : s.stepSize ≠ 0#16) (h : fftBody true s = none) :
    exec .verify s = .next ((s.unspecify s.spectrumBytes).raise .vod) := by
  refine (checkLen_legal legal _).trans ((checkStep_legal hstep _).trans ?_)
  rw [verifyBody, h]
  rfl

end

/-- Raising `ERR_VOD` after the destinations became unspecified writes no register but `STATUS` (R133). -/
theorem registers_of_overflow {i : Instr} {s : State} {ds : List (Nat × Nat)}
    (h : exec i s = .next ((s.unspecify ds).raise .vod)) :
    ∃ t, exec i s = .next t ∧ CompletedWith s t .vod ∧ ConfigKept s t ∧ t.matchCount = s.matchCount :=
  ⟨_, h, ⟨rfl, rfl, rfl, rfl⟩, configKept_refl s, rfl⟩

/-- Settles O15: a result that does not fit leaves the body of the transform without a state. -/
theorem overflowRaisesErrVod : Obligations.OverflowRaisesErrVod := by
  intro s legal
  refine ⟨fun hout => ?_, fun r hout => ?_, fun hstep hout => ?_⟩
  · exact registers_of_overflow (exec_ifft_none legal ((ifftBody_none_iff s).2 hout))
  · exact registers_of_overflow (exec_fft_none legal ((fftBody_none_iff r s).2 hout))
  · have hnone := (fftBody_none_iff true s).2 hout
    refine ⟨registers_of_overflow (exec_verify_none legal hstep hnone), fun hmode => ?_⟩
    obtain ⟨m, hm⟩ := Option.ne_none_iff_exists'.1 (mt (narrowing_none_iff s).1 hmode)
    exact registers_of_overflow (exec_decode_none legal hstep hm hnone)

/-! ## The ways out of the halted state -/

theorem HostEffect.err {s t : State} (h : HostEffect s t) : t.err = s.err := by
  cases h <;> rfl

/-- The turn of a halted engine: it is idle, or it completes CLRERR, or it completes another word and stays halted. -/
theorem engineTurn_halted {s t : State} (halted : s.err ≠ .noError) (h : engineTurn s = .next t) :
    t.err = s.err ∨
    (s.busy = true ∧ s.cur = 0x00000009#32 ∧ t.err = .noError) ∨
    (s.busy = true ∧ s.cur ≠ 0x00000009#32 ∧ t.err ≠ .noError) := by
  cases hbusy : s.busy with
  | false =>
    rw [engineTurn_idle hbusy] at h
    cases h
    exact .inl rfl
  | true =>
    rw [engineTurn_busy hbusy] at h
    by_cases hcur : s.cur = 0x00000009#32
    · have hdecode : decode s.cur = .ok .clrerr := hcur ▸ decode_encode .clrerr
      rw [complete_ok hdecode, exec_clrerr] at h
      cases h
      exact .inr (.inl ⟨rfl, hcur, rfl⟩)
    · refine .inr (.inr ⟨rfl, hcur, fun hclear => ?_⟩)
      cases hdecode : decode s.cur with
      | ok i =>
        rw [complete_ok hdecode] at h
        have hi : i ≠ .clrerr := by
          rintro rfl
          exact hcur (encode_of_decode hdecode).symm
        exact halted (noError_before hi h hclear)
      | error e =>
        rw [complete_error hdecode] at h
        cases h
        cases hclear

/-- Settles O16: of the three kinds of step, a host access leaves `ERR`, and under the invariant a halted engine completes
nothing but CLRERR. -/
theorem haltedLeftOnlyByClrerrOrReset : Obligations.HaltedLeftOnlyByClrerrOrReset := by
  intro s t halted hstep
  rcases step_next hstep with ⟨rest, hev, rfl⟩ | ⟨hev, es, hturn⟩ | ⟨rest, heffect⟩
  · exact ⟨fun _ => .inl ⟨rest, hev⟩, fun _ => .inr rfl⟩
  · rcases engineTurn_halted (s := { s with events := es }) halted hturn with
      hkept | ⟨hbusy, hcur, hclear⟩ | ⟨hbusy, hcur, hstays⟩
    · exact ⟨fun hclear => absurd (hkept.symm.trans hclear) halted, fun _ => .inl hkept⟩
    · exact ⟨fun _ => .inr ⟨hbusy, hcur, hev⟩, fun _ => .inr hclear⟩
    · exact ⟨fun hclear => absurd hclear hstays, fun hs => absurd (hs.haltedRunsClrerrOnly hbusy halted) hcur⟩
  · exact ⟨fun hclear => absurd (heffect.err.symm.trans hclear) halted, fun _ => .inl heffect.err⟩

/-! ## Byte frames -/

/-- The two states read the same at every byte address outside `W`. -/
def SameOutside (W : Nat → Prop) (s t : State) : Prop := ∀ a, ¬W a → t.byteAt a = s.byteAt a

section
variable {W V : Nat → Prop} {s t u : State}

theorem SameOutside.mono (h : SameOutside W s t) (hsub : ∀ a, W a → V a) : SameOutside V s t :=
  fun a ha => h a (mt (hsub a) ha)

theorem SameOutside.trans (hst : SameOutside W s t) (htu : SameOutside W t u) : SameOutside W s u :=
  fun a ha => (htu a ha).trans (hst a ha)

theorem SameOutside.finish (h : SameOutside W s t) : SameOutside W s t.finish :=
  fun a ha => (finish_byteAt t a).trans (h a ha)

theorem sameOutside_of_mem (hmem : t.mem = s.mem) (hepoch : t.epoch = s.epoch) : SameOutside W s t :=
  fun a _ => byteAt_congr hmem hepoch a

theorem sameOutside_raise (e : ErrCode) : SameOutside W s (s.raise e) := sameOutside_of_mem rfl rfl

/-- The byte address lies in one of the ranges (first address, length). -/
def InRanges (ds : List (Nat × Nat)) (a : Nat) : Prop := ∃ d ∈ ds, d.1 ≤ a ∧ a < d.1 + d.2

theorem inRanges_append {ds es : List (Nat × Nat)} {a : Nat} : InRanges (ds ++ es) a ↔ InRanges ds a ∨ InRanges es a := by
  simp only [InRanges, List.mem_append, or_and_right, exists_or]

theorem sameOutside_unspecify (ds : List (Nat × Nat)) : SameOutside (InRanges ds) s (s.unspecify ds) := by
  intro a ha
  rw [byteAt_unspecify, if_neg]
  simpa [InRanges] using ha

/-- `ERR_VOD` with destinations inside `W`. -/
theorem sameOutside_overflow {ds : List (Nat × Nat)} (hsub : ∀ a, InRanges ds a → W a) :
    SameOutside W s ((s.unspecify ds).raise .vod) :=
  ((sameOutside_unspecify ds).mono hsub).trans (sameOutside_raise .vod)

end

/-! ## The destinations that `ERR_VOD` leaves unspecified are cells that the rules list -/

section
variable (s : State) (a : Nat)

theorem inRanges_bytes_iff (re im : Region) (n : Nat) :
    InRanges [re.bytes n, im.bytes n] a ↔ inCells re 0 n a ∨ inCells im 0 n a := by
  simp only [InRanges, List.mem_cons, List.not_mem_nil, or_false, exists_eq_or_imp, exists_eq_left, Region.bytes, inCells,
    Nat.add_zero, Nat.mul_add]

theorem inRanges_spectrumBytes_iff :
    InRanges s.spectrumBytes a ↔ inCells .sr 0 s.lenN a ∨ inCells .si 0 s.lenN a := inRanges_bytes_iff a .sr .si s.lenN

theorem inRanges_sampleBytes_iff :
    InRanges s.sampleBytes a ↔ inCells .ar 0 s.lenN a ∨ inCells .ai 0 s.lenN a := inRanges_bytes_iff a .ar .ai s.lenN

theorem inRanges_blockBytes_iff : InRanges s.blockBytes a ↔ inBlock s.lenL a := by
  simp only [InRanges, State.blockBytes, List.mem_singleton, exists_eq_left, inBlock]

end

/-! ## What each command writes -/

section
variable {s t : State}

theorem decodeBody_sameOutside (legal : s.lenLegal = true) {m : QMode} (h : fftBody true s = some t) :
    SameOutside (Writes .decode s) s (unpackBody m t) := by
  obtain ⟨-, -, -, hfft, hregs⟩ := fftBody_result legal h
  obtain ⟨mem, rfl⟩ : ∃ mem, t = { s with mem := mem } := ⟨_, hregs⟩
  have hspectrum : SameOutside (Writes (.fft true) s) s { s with mem := mem } := hfft
  have hblock : SameOutside (inBlock s.lenL) { s with mem := mem } (unpackBody m { s with mem := mem }) :=
    unpackBody_byteAt (s := { s with mem := mem }) legal m
  exact (hspectrum.mono fun _ => Or.imp_right .inl).trans (hblock.mono fun _ ha => .inr (.inr ha))

theorem verifyBody_sameOutside (legal : s.lenLegal = true) (h : fftBody true s = some t) (c : Nat) :
    SameOutside (Writes .verify s) s (t.setMatch c) := by
  obtain ⟨-, -, -, hfft, -⟩ := fftBody_result legal h
  have hspectrum : SameOutside (Writes .verify s) s t := hfft
  exact hspectrum.trans (sameOutside_of_mem rfl rfl)

/-- Every command, by the ways in which it can end: a check raises, `ERR_VOD` leaves its destinations unspecified, or its
body stores. -/
theorem exec_sameOutside {i : Instr} (h : exec i s = .next t) : SameOutside (Writes i s) s t := by
  cases i with
  | nop =>
    cases h
    exact sameOutside_of_mem rfl rfl
  | clrerr =>
    cases h
    exact sameOutside_of_mem rfl rfl
  | pack =>
    rcases execPack_cases s with ⟨-, e⟩ | ⟨-, -, e⟩ | ⟨-, -, e⟩ <;> cases e.symm.trans h
    · exact sameOutside_raise .len
    · exact sameOutside_raise .cfg
    · exact SameOutside.finish (packBody_byteAt s)
  | sym =>
    rcases execSym_cases s with ⟨-, e⟩ | ⟨-, -, e⟩ | ⟨legal, u, hu, e⟩ <;> cases e.symm.trans h
    · exact sameOutside_raise .len
    · exact sameOutside_raise .vod
    · obtain ⟨-, -, -, -, hframe, -⟩ := symBody_result legal hu
      exact SameOutside.finish hframe
  | ifft =>
    rcases execIfft_cases s with ⟨-, e⟩ | ⟨-, -, e⟩ | ⟨legal, u, hu, e⟩ <;> cases e.symm.trans h
    · exact sameOutside_raise .len
    · exact sameOutside_overflow fun a => (inRanges_sampleBytes_iff s a).1
    · obtain ⟨-, -, -, hframe, -⟩ := ifftBody_result legal hu
      exact SameOutside.finish hframe
  | fft r =>
    rcases execFft_cases r s with ⟨-, e⟩ | ⟨-, -, e⟩ | ⟨legal, u, hu, e⟩ <;> cases e.symm.trans h
    · exact sameOutside_raise .len
    · exact sameOutside_overflow fun a => (inRanges_spectrumBytes_iff s a).1
    · obtain ⟨-, -, -, hframe, -⟩ := fftBody_result legal hu
      exact SameOutside.finish hframe
  | unpack =>
    rcases execUnpack_cases s with ⟨-, e⟩ | ⟨-, -, e⟩ | ⟨legal, -, m, -, e⟩ <;> cases e.symm.trans h
    · exact sameOutside_raise .len
    · exact sameOutside_raise .cfg
    · exact SameOutside.finish (unpackBody_byteAt legal m)
  | encode =>
    rcases execEncode_cases s with ⟨-, e⟩ | ⟨-, -, e⟩ | ⟨legal, hstep, -⟩ | ⟨legal, hstep, -⟩
    · cases e.symm.trans h
      exact sameOutside_raise .len
    · cases e.symm.trans h
      exact sameOutside_raise .cfg
    · exact (encoded_of_exec legal hstep h).frame
    · exact (encoded_of_exec legal hstep h).frame
  | decode =>
    rcases execDecode_cases s with ⟨-, e⟩ | ⟨-, -, e⟩ | ⟨-, -, -, e⟩ | ⟨legal, -, m, u, -, hu, e⟩ <;>
      cases e.symm.trans h
    · exact sameOutside_raise .len
    · exact sameOutside_raise .cfg
    · refine sameOutside_overflow fun a ha => ?_
      rw [inRanges_append, inRanges_spectrumBytes_iff, inRanges_blockBytes_iff, or_assoc] at ha
      exact ha
    · exact (decodeBody_sameOutside legal hu).finish
  | verify =>
    rcases execVerify_cases s with ⟨-, e⟩ | ⟨-, -, e⟩ | ⟨-, -, -, e⟩ | ⟨legal, -, u, hu, e⟩ <;> cases e.symm.trans h
    · exact sameOutside_raise .len
    · exact sameOutside_raise .cfg
    · exact sameOutside_overflow fun a => (inRanges_spectrumBytes_iff s a).1
    · exact (verifyBody_sameOutside legal hu u.matches).finish

end

/-- Settles O19: the byte frame of every command and every outcome. -/
theorem commandsWriteOnlyTheirCells : Obligations.CommandsWriteOnlyTheirCells :=
  fun _ _ _ a h => exec_sameOutside h a

end Sys2Proof.Machine

/-! # Reset and completion in spec/70_reset_and_hazards.md

What the reset input leaves (R150), and why every command completes when no reset input abandons it (R160). -/

namespace Sys2Proof.Machine

open Sys2Proof.Safety

/-! ## The reset input -/

/-- After the reset input nothing is listed in memory, so that every byte is of the new draw. -/
theorem byteAt_resetEvent (s : State) (a : Nat) : (resetEvent s).byteAt a = Config.freeByte s.draws a := rfl

theorem statusWord_resetEvent (s : State) : (resetEvent s).statusWord = 0x00000000#32 :=
  show State.reset.statusWord = _ by decide

/-- Settles O4: the registers are those of `State.reset`. -/
theorem resetEventGivesResetState : Obligations.ResetEventGivesResetState := by
  intro s rest hev
  exact ⟨_, step_reset hev, statusWord_resetEvent _, rfl, rfl, rfl, rfl, rfl, rfl, rfl, rfl, rfl, rfl,
    byteAt_resetEvent _, rfl⟩

/-! ## The list of events -/

theorem HostEffect.events {s t : State} (h : HostEffect s t) : t.events = s.events := by
  cases h <;> rfl

theorem engineTurn_events {s t : State} (h : engineTurn s = .next t) : t.events = s.events := by
  rcases engineTurn_next h with ⟨-, rfl⟩ | ⟨-, ⟨i, -, hcompletion⟩ | rfl⟩
  · rfl
  · obtain ⟨-, -, -, -, -, hevents, -⟩ := hcompletion.config
    exact hevents
  · rfl

/-- A step with an event left is the reset input, the engine's turn or a host access, with that event taken. -/
theorem step_cons_next {s t : State} {e : Event} {rest : List Event} (hev : s.events = e :: rest)
    (h : step s = .next t) :
    (e = .reset ∧ t = resetEvent { s with events := rest }) ∨
    engineTurn { s with events := rest } = .next t ∨ HostEffect { s with events := rest } t := by
  cases e with
  | read off => exact .inr (.inr (hostRead_effect ((step_read hev).symm.trans h)))
  | write off v => exact .inr (.inr (hostWrite_effect ((step_write hev).symm.trans h)))
  | engine => exact .inr (.inl ((step_engine hev).symm.trans h))
  | reset =>
    rw [step_reset hev] at h
    cases h
    exact .inl ⟨rfl, rfl⟩

theorem step_cons_events {s t : State} {e : Event} {rest : List Event} (hev : s.events = e :: rest)
    (h : step s = .next t) : t.events = rest := by
  rcases step_cons_next hev h with ⟨-, rfl⟩ | hturn | heffect
  · rfl
  · exact engineTurn_events hturn
  · exact heffect.events

theorem not_outsideAccess_of_inWindow {es : List Event} (h : InWindow es) : ¬OutsideAccess es := by
  rintro ⟨off, rest, hout, rfl | ⟨v, rfl⟩⟩
  · obtain ⟨hread, -⟩ := h _ List.mem_cons_self
    exact hout.not_gt (hread off rfl)
  · obtain ⟨-, hwrite⟩ := h _ List.mem_cons_self
    exact hout.not_gt (hwrite off v rfl)

theorem step_isNext_of_inWindow {s : State} (h : InWindow s.events) : ∃ t, step s = .next t := by
  rcases step_outcome s with ⟨hout, -⟩ | ⟨-, hnext⟩
  · exact absurd hout (not_outsideAccess_of_inWindow h)
  · exact hnext

/-! ## Eventual completion -/

/-- A command is running, or has completed, or will be offered to an engine that is not halted: what every step but the
reset input keeps. -/
def CompletedOrToCome (s : State) : Prop :=
  s.busy = true ∨ s.done = true ∨ (s.err = .noError ∧ ∃ w, Event.write 0x0001 w ∈ s.events)

theorem CompletedOrToCome.after_engineTurn {s t : State} (hs : CompletedOrToCome s) (h : engineTurn s = .next t) :
    CompletedOrToCome t := by
  rcases engineTurn_next h with ⟨-, rfl⟩ | ⟨-, ⟨i, -, hcompletion⟩ | rfl⟩
  · exact hs
  · obtain ⟨-, hdone⟩ := hcompletion.status
    exact .inr (.inl hdone)
  · exact .inr (.inl rfl)

/-- `DONE` is cleared by an acceptance only, which makes the engine busy. -/
theorem CompletedOrToCome.after_hostEffect {s t : State} (hs : CompletedOrToCome s) (h : HostEffect s t) :
    CompletedOrToCome t := by
  cases h with
  | accepted w idle allowed => exact .inl rfl
  | _ => exact hs

/-- Taking the first event off the list loses nothing but an offer to an idle engine that is not halted. -/
theorem CompletedOrToCome.tail_or_offer {s : State} {e : Event} {rest : List Event} (hs : CompletedOrToCome s)
    (hev : s.events = e :: rest) :
    CompletedOrToCome { s with events := rest } ∨
    (s.busy = false ∧ s.err = .noError ∧ ∃ w, e = .write 0x0001 w) := by
  rcases hs with busy | done | ⟨running, w, hw⟩
  · exact .inl (.inl busy)
  · exact .inl (.inr (.inl done))
  · rw [hev] at hw
    rcases List.mem_cons.1 hw with rfl | hrest
    · rcases s.busy.eq_false_or_eq_true with busy | idle
      · exact .inl (.inl busy)
      · exact .inr ⟨idle, running, w, rfl⟩
    · exact .inl (.inr (.inr ⟨running, w, hrest⟩))

/-- Such an offer is accepted; the engine's turn and the host's accesses keep the rest. -/
theorem CompletedOrToCome.after_step {s t : State} {e : Event} {rest : List Event} (hs : CompletedOrToCome s)
    (hev : s.events = e :: rest) (hreset : e ≠ .reset) (h : step s = .next t) : CompletedOrToCome t := by
  rcases hs.tail_or_offer hev with htail | ⟨idle, running, w, rfl⟩
  · rcases step_cons_next hev h with ⟨he, -⟩ | hturn | heffect
    · exact absurd he hreset
    · exact htail.after_engineTurn hturn
    · exact htail.after_hostEffect heffect
  · cases (step_offer_accepted hev idle (.inl running)).symm.trans h
    exact .inl rfl

/-- Right after the engine's turn the engine is idle; a command that was running, or had completed, has completed. -/
theorem engineTurn_settles {s t : State} (h : engineTurn s = .next t) :
    t.busy = false ∧ (s.busy = true ∨ s.done = true → t.done = true) := by
  rcases engineTurn_next h with ⟨idle, rfl⟩ | ⟨-, ⟨i, -, hcompletion⟩ | rfl⟩
  · exact ⟨idle, fun hs => hs.resolve_left (by simp [idle])⟩
  · obtain ⟨hbusy, hdone⟩ := hcompletion.status
    exact ⟨hbusy, fun _ => hdone⟩
  · exact ⟨rfl, fun _ => rfl⟩

/-- The step of a machine with no event left is the engine's turn, and nothing is left to offer. -/
theorem step_nil_settles {s : State} (hev : s.events = []) :
    ∃ t, step s = .next t ∧ t.busy = false ∧ t.events = [] ∧ (CompletedOrToCome s → t.done = true) := by
  obtain ⟨t, ht⟩ := engineTurn_isNext s
  obtain ⟨hbusy, hdone⟩ := engineTurn_settles ht
  refine ⟨t, (step_idle hev).trans ht, hbusy, (engineTurn_events ht).trans hev, fun hs => hdone ?_⟩
  exact hs.imp_right fun h => h.resolve_right fun ⟨_, _, hw⟩ => List.not_mem_nil (hev ▸ hw)

/-- Settles O8, by induction on the events left: each step takes one and keeps `CompletedOrToCome`, and the step after
the last is the engine's. -/
theorem everyAcceptedCommandCompletes : Obligations.EveryAcceptedCommandCompletes := by
  intro s
  induction hev : s.events generalizing s with
  | nil =>
    intro _
    obtain ⟨t, ht, hbusy, hevents, hdone⟩ := step_nil_settles hev
    exact ⟨t, run_succ ht 0, hbusy, hevents, fun _ hs => hdone (by rwa [← hev] at hs)⟩
  | cons e rest ih =>
    intro hwindow
    obtain ⟨u, hu⟩ := step_isNext_of_inWindow (s := s) (hev ▸ hwindow)
    have hrest : u.events = rest := step_cons_events hev hu
    obtain ⟨t, ht, hbusy, hevents, hdone⟩ := ih u hrest fun a ha => hwindow a (List.mem_cons_of_mem e ha)
    refine ⟨t, (run_succ hu _).trans ht, hbusy, hevents, fun hreset hs => ?_⟩
    have hfirst : e ≠ .reset := (List.ne_of_not_mem_cons hreset).symm
    have hkept : CompletedOrToCome u := CompletedOrToCome.after_step (by rwa [← hev] at hs) hev hfirst hu
    exact hdone (List.not_mem_of_not_mem_cons hreset) (by rwa [← hrest])

end Sys2Proof.Machine
